-- ==== Sys2Proof/Word.lean ====
section
/-! DEFINITION. Word.lean: the widths of the core. A sample is a signed 16-bit value held as its two's-complement
pattern (R9, R76; D4), a byte is 8 bits, a command word and a clock reading are 32 bits (R71, R32). -/

namespace Sys2Proof

/-- One byte of a wire frame or of a transaction stream (R50). -/
abbrev Byte := BitVec 8

/-- One sample: an `s16` held as its 16-bit pattern (R9, R76). No operation computes on its value (R123). -/
abbrev Sample := BitVec 16

/-- A command word, a clock reading, a diagnostic counter: 32 bits (R71, R32, R33). -/
abbrev Word32 := BitVec 32

/-- The signed value of a sample, `sext_16` read as an integer (R9, R76). -/
def Sample.value (s : Sample) : Int := BitVec.toInt s

end Sys2Proof
end

