-- ==== Sys2Proof/Config.lean ====
section
/-! DEFINITION. Config.lean: the parameters fixed at construction (R6, R35), and the one value the spec leaves
free. The parameters are data of State (`CFG.*` are registers, R20), so every statement is about every configuration. -/

namespace Sys2Proof

/-- The configuration registers `CFG.*` (R6, R35), under the spec's names. The widths and legal values of R35 are
what `Machine.legal` checks at construction (R7). -/
structure Config where
  /-- SampleRingBuffer capacity, in samples. -/
  C : Nat
  /-- `MAX_SAMPLES_PER_FRAME`. -/
  M : Nat
  /-- Header length, in bytes. -/
  H : Nat
  /-- Header content. -/
  HDR : List Byte
  /-- The radio's maximum payload, in bytes. -/
  P_MAX : Nat
  /-- Minimum dwell time per phase, in ms. -/
  T_DWELL : Nat
  /-- Samples popped per RECEIVE iteration. -/
  K_POP : Nat
  /-- Samples requested per capture read. -/
  K_CAP : Nat
  /-- Sample rate passed to `AudioSink.start`, in Hz. -/
  RATE : Nat
  /-- The diagnostic counters exist (D20). -/
  DIAG : Bool
  /-- Inbound header bytes are compared with `HDR` (D9). -/
  CHECK_HEADER : Bool
  deriving DecidableEq, Repr

/-- `W_T`, the width of the clock reading and of `RC.t_entry` (R6, D12). -/
def Config.W_T : Nat := 32

/-- The spec's test configuration TC (95_test_vectors.md). State.reset is built with it: DESIGN CHOICE, log 1 (unsafe
for a claim about State.reset alone; the parameters are OPEN, R6). -/
def Config.testConfiguration : Config where
  C := 4
  M := 3
  H := 2
  HDR := [0xA5#8, 0x5A#8]
  P_MAX := 8
  T_DWELL := 1000
  K_POP := 2
  K_CAP := 4
  RATE := 16000
  DIAG := true
  CHECK_HEADER := false

/-- FREE VALUE (log 4, safe): how many operand bytes a refused transaction with a reserved `OP` takes from its stream. R81 gives a
length only for a listed format. Applied to the number of refusals so far and to the command word. -/
opaque Config.illegalArea : Nat → Word32 → Nat

end Sys2Proof
end

