-- ==== Sys2Proof/Syntax.lean ====
section
/-! DEFINITION. Syntax.lean: ports, operation codes, formats and transactions (R70 to R74, R211). One constructor of
`Instr` for each row of spec/opcode_table.json. -/

namespace Sys2Proof

/-- The two agents, each with the port of its name (R8, R211). -/
inductive Port where
  | prod
  | cons
  deriving DecidableEq, Repr

/-- The agents' identifiers (R211): PROD 0, CONS 1. -/
def Port.identifier : Port → Nat
  | .prod => 0
  | .cons => 1

/-- The operations of R74. -/
inductive Op where
  | push | pop | pack | unpack | rxf | add | flush | step
  deriving DecidableEq, Repr

/-- The operand formats of R72. -/
inductive Format where
  | cmd | cmdImm | cmdS | cmdB | cmdTS
  deriving DecidableEq, Repr

/-- One transaction: an operation with its operands (R74). PACK and UNPACK may be issued on either port, so they name
the port that issues them and receives the result (R120, R121, R10 `return`). -/
inductive Instr where
  /-- PUSH `s[0..N-1]` (R100). -/
  | push (samples : List Sample)
  /-- POP `N` (R101). -/
  | pop (count : Nat)
  /-- PACK `s[0..N-1]` (R120). -/
  | pack (port : Port) (samples : List Sample)
  /-- UNPACK `b[0..L-1]` (R121). -/
  | unpack (port : Port) (bytes : List Byte)
  /-- RXF `b[0..L-1]` (R140). -/
  | rxf (bytes : List Byte)
  /-- ADD `s` (R142). -/
  | add (sample : Sample)
  /-- FLUSH (R143). -/
  | flush
  /-- STEP `now, ptt, c[0..N-1]` (R160). -/
  | step (now : Word32) (ptt : Bool) (captured : List Sample)
  deriving DecidableEq, Repr

/-- Why a transaction, or a construction, is refused (R201). -/
inductive RefusalReason where
  | illegalOpcode
  | reservedNonzero
  | wrongPort
  | truncated
  | operandRange
  | captureUnexpected
  | configInvalid
  deriving DecidableEq, Repr

/-- What the decoder answers (R75): a transaction and the bytes after it (R81), or the reason of the first check that
fails. -/
inductive Decoded where
  | ok (i : Instr) (rest : List Byte)
  | refused (reason : RefusalReason)
  deriving DecidableEq, Repr

/-- What UNPACK returns (R121). -/
inductive Unpacked where
  | malformed
  | ok (samples : List Sample)
  deriving DecidableEq, Repr

end Sys2Proof
end

