-- ==== Sys2Proof/Machine/State.lean ====
section
/-! DEFINITION. Machine/State.lean: the state of the core (R20 to R35), what an observation adds to it (R231), and what the
environment still has to give (R70, R204, R141). Plain data throughout. -/

namespace Sys2Proof.Machine

/-- The coordinator's phase, one bit (R31). -/
inductive Phase where
  | receive
  | transmit
  deriving DecidableEq, Repr

/-- The bit values of R31: RECEIVE 0, TRANSMIT 1. -/
def Phase.bit : Phase → BitVec 1
  | .receive => 0#1
  | .transmit => 1#1

/-- The SampleRingBuffer: storage, read cursor, write cursor, occupancy (R22 to R25). -/
structure Ring where
  buf : List Sample
  rd : Nat
  wr : Nat
  cnt : Nat
  deriving DecidableEq, Repr

/-- The TransmitAccumulator: storage and fill level (R29, R30). -/
structure Accumulator where
  data : List Sample
  len : Nat
  deriving DecidableEq, Repr

/-- The RelayCoordinator: the phase and the clock reading at its entry (R31, R32). -/
structure Coordinator where
  phase : Phase
  t_entry : Word32
  deriving DecidableEq, Repr

/-- The diagnostic counters (R33, R34). They are held, and stay 0, when `CFG.DIAG` is false (log 13). -/
structure Diagnostics where
  drop_events : Word32
  underflow_events : Word32
  deriving DecidableEq, Repr

/-- One call of a collaborator operation, as R190 lists them. -/
inductive Event where
  /-- `RadioLink.broadcastSend(frameBytes)`. -/
  | txf (frame : List Byte)
  /-- `AudioSink.write(buffer, count = length)`. -/
  | snkWr (samples : List Sample)
  /-- `AudioSink.start(sampleRate)`. -/
  | snkStart (rate : Nat)
  /-- `AudioSink.stop()`. -/
  | snkStop
  /-- `AudioCaptureSource.start()`. -/
  | capStart
  /-- `AudioCaptureSource.stop()`. -/
  | capStop
  /-- `AudioCaptureSource.read(buffer, K_CAP)`, which returned `n` samples. -/
  | capRd (n : Nat)
  /-- The "transmitting" indicator on or off. -/
  | ind (on : Bool)
  deriving DecidableEq, Repr

/-- What a transaction returns to the agent that issued it (R10 `return`, R100 to R160). -/
inductive Result where
  | nothing
  /-- POP's samples (R101). -/
  | samples (out : List Sample)
  /-- PACK's frame (R120). -/
  | frame (bytes : List Byte)
  /-- UNPACK's samples or MALFORMED (R121). -/
  | unpacked (r : Unpacked)
  deriving DecidableEq, Repr

/-- The absorbed conditions of R195. -/
inductive Condition where
  /-- A PUSH that dropped at least one sample; PUSH, RXF. -/
  | rbDrop
  /-- A POP with fewer buffered samples than requested; POP, STEP. -/
  | rbUnderflow
  /-- An inbound frame that is malformed; RXF. -/
  | rxMalformed
  /-- A send the radio rejected; ADD, FLUSH, STEP. -/
  | txSendFail
  /-- A failed device: outside the core, never recorded by the model (R202, log 15). -/
  | driverFail
  deriving DecidableEq, Repr

/-- The radio's answer to one `TXF` (R141, R193). -/
inductive SendAnswer where
  | accepted
  | rejected
  deriving DecidableEq, Repr

/-- The whole state. `cfg` to `diag` are the core's state (R20); `out`, `refused` and `results` are the rest of an
observation (R220, R231); the other fields are the model's own (INVENTORY.md, log 5 to log 8). -/
structure State where
  /-- `CFG.*` (R35). -/
  cfg : Config
  /-- `RB.*` (R22 to R25). -/
  rb : Ring
  /-- `ACC.*` (R29, R30). -/
  acc : Accumulator
  /-- `RC.*` (R31, R32). -/
  rc : Coordinator
  /-- `DIAG.*` (R33, R34). -/
  diag : Diagnostics
  /-- The output trace `OUT`, oldest first (R190). -/
  out : List Event
  /-- The sticky mark `REFUSED` (R200). -/
  refused : Bool
  /-- The results returned to each agent, oldest first (R231). -/
  results : List (Port × Result)
  /-- The reasons reported for refused transactions, oldest first (R205; log 7). -/
  refusals : List (Port × RefusalReason)
  /-- The absorbed conditions, oldest first (R195; log 7). -/
  absorbed : List Condition
  /-- The radio's coming answers, an environment input (R141, R193; log 8). -/
  sends : List SendAnswer
  /-- The bytes PROD has still to present (R70; log 6). -/
  prodStream : List Byte
  /-- The bytes CONS has still to present (R70; log 6). -/
  consStream : List Byte
  /-- Which agent performs the next transaction, then the next after it: the environment's choice (R204; log 5). -/
  turns : List Port
  deriving DecidableEq, Repr

/-- Faults: none. The core raises no exception, has no error state and no trap (R194, R206), and no state of the model
stops a transaction by a fault (log 20). -/
inductive Fault where
  deriving DecidableEq, Repr

/-- Refusals that end a run. A refused TRANSACTION is none of these: it is a next state with the mark REFUSED (R200,
log 3). -/
inductive Refusal where
  /-- An instruction with no meaning yet, by its mnemonic: raised by exec alone, and by no arm of it. Safe. -/
  | notModelled (mnemonic : String)
  /-- CONFIG_INVALID: raised by `init` alone, for a construction that breaks R7; no core exists (R201). Safe. -/
  | configInvalid
  deriving DecidableEq, Repr

/-- The state right after `Init(cfg, now0)` (R220), for storage contents the spec leaves unspecified (R22, R29). -/
def State.constructed (cfg : Config) (now0 : Word32) (buf data : List Sample) : State where
  cfg := cfg
  rb := { buf := buf, rd := 0, wr := 0, cnt := 0 }
  acc := { data := data, len := 0 }
  rc := { phase := .receive, t_entry := now0 }
  diag := { drop_events := 0#32, underflow_events := 0#32 }
  out := [.snkStart cfg.RATE]
  refused := false
  results := []
  refusals := []
  absorbed := []
  sends := []
  prodStream := []
  consStream := []
  turns := []

/-- Right after reset: the spec's S0, `Init(TC, now0 = 0)` (95_test_vectors.md). The configuration and `now0` are a
DESIGN CHOICE (log 1, unsafe), and so are the zero storage contents (log 2, unsafe). -/
def State.reset : State :=
  State.constructed Config.testConfiguration 0#32
    (List.replicate Config.testConfiguration.C 0#16) (List.replicate Config.testConfiguration.M 0#16)

end Sys2Proof.Machine
end

