-- ==== Sys2Proof/Machine/Flags.lean ====
section
/-! DEFINITION. Machine/Flags.lean: the derived conditions. The core stores no flag (R28): EMPTY, FULL and the dwell floor are
computed where they are read. -/

namespace Sys2Proof.Machine

/-- `EMPTY := (RB.cnt = 0)` (R28). -/
def Ring.isEmpty (r : Ring) : Bool := r.cnt == 0

/-- `FULL := (RB.cnt = C)` (R28), which PUSH reads to decide a drop (R100). -/
def Ring.isFull (C : Nat) (r : Ring) : Bool := r.cnt == C

/-- `elapsed(now) := (now - RC.t_entry) mod 2^W_T`, wrap-around subtraction (R161). -/
def Coordinator.elapsed (rc : Coordinator) (now : Word32) : Word32 := now - rc.t_entry

/-- `floor_elapsed(now) := elapsed(now) >= T_DWELL` (R161). -/
def State.floorElapsed (now : Word32) (s : State) : Bool := s.cfg.T_DWELL ≤ (s.rc.elapsed now).toNat

end Sys2Proof.Machine
end

