-- ==== Sys2Proof/Machine/Operands.lean ====
section
/-! DEFINITION. Machine/Operands.lean: byte order and operand assembly (R52, R73, R76 to R78), shared by the decoder, the
encoder and the frame codec. Everything is little-endian and byte-packed (R73, R82). -/

namespace Sys2Proof.Machine

/-- The two bytes of a sample, `s[7:0]` then `s[15:8]` (R73, R82). -/
def bytesOfSample (s : Sample) : List Byte := [s.extractLsb' 0 8, s.extractLsb' 8 8]

/-- A sample from its low and high byte: `sext_16({hi, lo})`, kept as the 16-bit pattern (R76, R121). -/
def sampleOfBytes (lo hi : Byte) : Sample := hi ++ lo

/-- The bytes of a run of samples, in order, with no padding (R73, R82). -/
def bytesOfSamples : List Sample → List Byte
  | [] => []
  | s :: rest => bytesOfSample s ++ bytesOfSamples rest

/-- The samples of a run of bytes, one for each byte pair (R76, R121). A last odd byte gives no sample; R75 and R121
never pass one. -/
def samplesOfBytes : List Byte → List Sample
  | lo :: hi :: rest => sampleOfBytes lo hi :: samplesOfBytes rest
  | _ => []

/-- The four bytes of a 32-bit word, least significant first (R73). -/
def bytesOfWord32 (w : Word32) : List Byte :=
  [w.extractLsb' 0 8, w.extractLsb' 8 8, w.extractLsb' 16 8, w.extractLsb' 24 8]

/-- A 32-bit word from its four bytes, least significant first (R73, R75, R78). -/
def word32OfBytes (b0 b1 b2 b3 : Byte) : Word32 := b3 ++ b2 ++ b1 ++ b0

/-- STEP's clock operand: the first four bytes of the operand area (R78). R75 gives STEP an area of at least four
bytes, so the last line is never used by the decoder. -/
def nowOfBytes : List Byte → Word32
  | b0 :: b1 :: b2 :: b3 :: _ => word32OfBytes b0 b1 b2 b3
  | _ => 0#32

end Sys2Proof.Machine
end

