-- ==== Sys2Proof/Machine/Ops.lean ====
section
/-! DEFINITION. Machine/Ops.lean: the operations the transactions share: the primitives of R10 (Emit, return, refuse,
absorb), the ring (R100, R101), the frame codec (R82, R120, R121), the accumulator (R142, R143). -/

namespace Sys2Proof.Machine

/-! ### The primitives of R10 -/

/-- `Emit(e)` (R10, R190). -/
def State.emit (e : Event) (s : State) : State := { s with out := s.out ++ [e] }

/-- `absorb <Cond>` (R10, R195): names the condition and changes nothing of the core. -/
def State.absorb (c : Condition) (s : State) : State := { s with absorbed := s.absorbed ++ [c] }

/-- `return v` to the issuing agent (R10). -/
def State.respond (port : Port) (r : Result) (s : State) : State := { s with results := s.results ++ [(port, r)] }

/-- `refuse <Reason>` (R10, R200): no core state changes and no event is emitted; the run is marked REFUSED for good,
and the reason is reported (R205). The run goes on (95_test_vectors.md Program 4; log 3). -/
def State.refuse (port : Port) (reason : RefusalReason) (s : State) : State :=
  { s with refused := true, refusals := s.refusals ++ [(port, reason)] }

/-- The codes of R201. -/
def RefusalReason.code : RefusalReason → Byte
  | .illegalOpcode => 0x81#8
  | .reservedNonzero => 0x82#8
  | .wrongPort => 0x83#8
  | .truncated => 0x84#8
  | .operandRange => 0x85#8
  | .captureUnexpected => 0x86#8
  | .configInvalid => 0x87#8

/-- The codes of R195. -/
def Condition.code : Condition → Byte
  | .rbDrop => 0x01#8
  | .rbUnderflow => 0x02#8
  | .rxMalformed => 0x03#8
  | .txSendFail => 0x04#8
  | .driverFail => 0x05#8

/-! ### The streams (R70) -/

/-- The bytes an agent has still to present. -/
def State.stream (s : State) : Port → List Byte
  | .prod => s.prodStream
  | .cons => s.consStream

/-- Another byte string for an agent still to present. -/
def State.setStream (port : Port) (T : List Byte) (s : State) : State :=
  match port with
  | .prod => { s with prodStream := T }
  | .cons => { s with consStream := T }

/-! ### The ring (R51, R100, R101) -/

/-- `RB.buf[i]` for the index R51 forms. Outside `0..C-1`, which no reachable state forms, 0 (log 11). -/
def Ring.at (r : Ring) (i : Nat) : Sample := r.buf.getD i 0#16

/-- The `k` oldest samples: `RB.buf[(RB.rd + i) mod C]` for `i` in `0..k-1` (R51, R101). -/
def Ring.oldest (C : Nat) (r : Ring) (k : Nat) : List Sample :=
  (List.range k).map fun i => r.at ((r.rd + i) % C)

/-- `seq(RB)`, the logical content, oldest first (R27). -/
def Ring.seq (C : Nat) (r : Ring) : List Sample := r.oldest C r.cnt

/-- Drop the oldest sample (R100). -/
def Ring.dropOldest (C : Nat) (r : Ring) : Ring := { r with rd := (r.rd + 1) % C, cnt := r.cnt - 1 }

/-- Write one sample at `RB.wr` and advance (R100, R51). -/
def Ring.write (C : Nat) (x : Sample) (r : Ring) : Ring :=
  { r with buf := r.buf.set r.wr x, wr := (r.wr + 1) % C, cnt := r.cnt + 1 }

/-- The loop of R100: the ring and the number of samples dropped, from `dropped` so far. -/
def Ring.push (C : Nat) : List Sample → Ring → Nat → Ring × Nat
  | [], r, dropped => (r, dropped)
  | x :: rest, r, dropped =>
    if r.isFull C then Ring.push C rest ((r.dropOldest C).write C x) (dropped + 1)
    else Ring.push C rest (r.write C x) dropped

/-- Remove the `k` oldest samples (R101). -/
def Ring.remove (C : Nat) (k : Nat) (r : Ring) : Ring := { r with rd := (r.rd + k) % C, cnt := r.cnt - k }

/-- `if DIAG: DIAG.drop_events <- (DIAG.drop_events + 1) mod 2^32` (R100, R33). -/
def State.countDrop (s : State) : State :=
  if s.cfg.DIAG then { s with diag := { s.diag with drop_events := s.diag.drop_events + 1#32 } } else s

/-- `if DIAG: DIAG.underflow_events <- (DIAG.underflow_events + 1) mod 2^32` (R101, R34). -/
def State.countUnderflow (s : State) : State :=
  if s.cfg.DIAG then { s with diag := { s.diag with underflow_events := s.diag.underflow_events + 1#32 } } else s

/-- PUSH(s[0..N-1]) (R100), performed by PUSH and by RXF. -/
def State.pushSamples (samples : List Sample) (s : State) : State :=
  let pushed := Ring.push s.cfg.C samples s.rb 0
  let s1 := { s with rb := pushed.1 }
  if pushed.2 > 0 then (s1.absorb .rbDrop).countDrop else s1

/-- What POP(N) returns: the buffered samples it takes, then silence (R101). -/
def State.popped (n : Nat) (s : State) : List Sample :=
  let k := min s.rb.cnt n
  s.rb.oldest s.cfg.C k ++ List.replicate (n - k) 0#16

/-- The state after POP(N) (R101), performed by POP and by STEP's RECEIVE body. -/
def State.popSamples (n : Nat) (s : State) : State :=
  let k := min s.rb.cnt n
  let s1 := { s with rb := s.rb.remove s.cfg.C k }
  if k < n then (s1.absorb .rbUnderflow).countUnderflow else s1

/-! ### The frame codec (R82, R120, R121) -/

/-- The frame PACK builds: the header, then two bytes a sample (R82, R120). -/
def buildFrame (cfg : Config) (samples : List Sample) : List Byte :=
  cfg.HDR.take cfg.H ++ bytesOfSamples samples

/-- PACK's range check (R120): `1 <= N <= M`. -/
def packInRange (cfg : Config) (samples : List Sample) : Bool :=
  1 ≤ samples.length && samples.length ≤ cfg.M

/-- UNPACK(b[0..L-1]) (R121), performed by UNPACK and by RXF. -/
def unpackFrame (cfg : Config) (b : List Byte) : Unpacked :=
  if b.length < cfg.H + 2 then .malformed
  else if (b.length - cfg.H) % 2 ≠ 0 then .malformed
  else if (b.length - cfg.H) / 2 > cfg.M then .malformed
  else if cfg.CHECK_HEADER ∧ b.take cfg.H ≠ cfg.HDR.take cfg.H then .malformed
  else .ok (samplesOfBytes (b.drop cfg.H))

/-! ### The transmit accumulator and the radio (R141 to R143) -/

/-- `ACC.data[0 .. ACC.len-1]`, the samples collected since the last frame (R29). -/
def Accumulator.collected (a : Accumulator) : List Sample := a.data.take a.len

/-- `Emit(TXF(f))` and the radio's answer (R141). The core reads no answer: a rejected send is only named, TX_SEND_FAIL
(R199). With no answer listed the send counts as accepted (log 8). -/
def State.sendFrame (f : List Byte) (s : State) : State :=
  let s1 := s.emit (.txf f)
  match s1.sends with
  | [] => s1
  | .accepted :: later => { s1 with sends := later }
  | .rejected :: later => { s1 with sends := later }.absorb .txSendFail

/-- ADD(s) (R142), performed by ADD and by STEP's TRANSMIT body. Its PACK has `N = M`, which is in range (R120; log 12). -/
def State.addSample (x : Sample) (s : State) : State :=
  let filled : Accumulator := { data := s.acc.data.set s.acc.len x, len := s.acc.len + 1 }
  if filled.len = s.cfg.M then
    { s with acc := { filled with len := 0 } }.sendFrame (buildFrame s.cfg (filled.data.take s.cfg.M))
  else { s with acc := filled }

/-- ADD of each sample, in order (R166). -/
def State.addSamples : List Sample → State → State
  | [], s => s
  | x :: rest, s => State.addSamples rest (s.addSample x)

/-- FLUSH() (R143), performed by FLUSH and by STEP's transition to RECEIVE. Its PACK has `1 <= N <= M-1` (R120; log 12). -/
def State.flushAccumulator (s : State) : State :=
  if s.acc.len > 0 then
    { s with acc := { s.acc with len := 0 } }.sendFrame (buildFrame s.cfg s.acc.collected)
  else s

end Sys2Proof.Machine
end

