-- ==== Sys2Proof/Machine/Coordinator.lean ====
section
/-! DEFINITION. Machine/Coordinator.lean: the meaning of STEP, one iteration of the RelayCoordinator loop (43_coordinator.md). -/

namespace Sys2Proof.Machine

/-- `enter_transmit(now)` (R163). -/
def State.enterTransmit (now : Word32) (s : State) : State :=
  { ((s.emit .snkStop).emit .capStart).emit (.ind true) with rc := { phase := .transmit, t_entry := now } }

/-- `enter_receive(now)` (R165): the exit flush comes first. -/
def State.enterReceive (now : Word32) (s : State) : State :=
  { ((s.flushAccumulator.emit .capStop).emit (.snkStart s.cfg.RATE)).emit (.ind false) with
    rc := { phase := .receive, t_entry := now } }

/-- `receive_body()` (R164): POP `K_POP` samples and write them to the sink. -/
def State.receiveBody (s : State) : State :=
  (s.popSamples s.cfg.K_POP).emit (.snkWr (s.popped s.cfg.K_POP))

/-- `transmit_body(c[0..N-1])` (R166). -/
def State.transmitBody (captured : List Sample) (s : State) : State :=
  (s.emit (.capRd captured.length)).addSamples captured

/-- STEP (R160). The refusal checks run before any state change or event. -/
def execStep (now : Word32) (ptt : Bool) (captured : List Sample) (s : State) : Host.Outcome State Fault Refusal :=
  if captured.length > s.cfg.K_CAP then .next (s.refuse .cons .operandRange)
  else
    match s.rc.phase with
    | .receive =>
      if captured.length ≠ 0 then .next (s.refuse .cons .captureUnexpected)
      else if s.floorElapsed now && ptt then .next ((s.enterTransmit now).respond .cons .nothing)
      else .next (s.receiveBody.respond .cons .nothing)
    | .transmit =>
      if s.floorElapsed now && !ptt then
        if captured.length ≠ 0 then .next (s.refuse .cons .captureUnexpected)
        else .next ((s.enterReceive now).respond .cons .nothing)
      else .next ((s.transmitBody captured).respond .cons .nothing)

end Sys2Proof.Machine
end

