-- ==== Sys2Proof/Machine/FrameCodec.lean ====
section
/-! DEFINITION. Machine/FrameCodec.lean: the meanings of PACK and UNPACK (41_frame_codec.md). Neither writes core state. -/

namespace Sys2Proof.Machine

/-- PACK (R120): the frame of `1..M` samples; any other count is refused with OPERAND_RANGE. -/
def execPack (port : Port) (samples : List Sample) (s : State) : Host.Outcome State Fault Refusal :=
  if packInRange s.cfg samples then .next (s.respond port (.frame (buildFrame s.cfg samples)))
  else .next (s.refuse port .operandRange)

/-- UNPACK (R121): the frame's samples, or MALFORMED as a return value. -/
def execUnpack (port : Port) (bytes : List Byte) (s : State) : Host.Outcome State Fault Refusal :=
  .next (s.respond port (.unpacked (unpackFrame s.cfg bytes)))

end Sys2Proof.Machine
end

