-- ==== Sys2Proof/Machine/RingBuffer.lean ====
section
/-! DEFINITION. Machine/RingBuffer.lean: the meanings of PUSH and POP (40_ring_buffer.md). -/

namespace Sys2Proof.Machine

/-- PUSH (R100): append, dropping the oldest on overflow; returns nothing. -/
def execPush (samples : List Sample) (s : State) : Host.Outcome State Fault Refusal :=
  .next ((s.pushSamples samples).respond .prod .nothing)

/-- POP (R101): remove, filling a shortfall with silence; returns exactly `count` samples. -/
def execPop (count : Nat) (s : State) : Host.Outcome State Fault Refusal :=
  .next ((s.popSamples count).respond .cons (.samples (s.popped count)))

end Sys2Proof.Machine
end

