-- ==== Sys2Proof/Machine/Transport.lean ====
section
/-! DEFINITION. Machine/Transport.lean: the meanings of RXF, ADD and FLUSH (42_transport.md). -/

namespace Sys2Proof.Machine

/-- RXF (R140): a well-formed inbound frame is pushed, a malformed one is discarded; in either phase. -/
def execRxf (bytes : List Byte) (s : State) : Host.Outcome State Fault Refusal :=
  match unpackFrame s.cfg bytes with
  | .malformed => .next ((s.absorb .rxMalformed).respond .prod .nothing)
  | .ok samples => .next ((s.pushSamples samples).respond .prod .nothing)

/-- ADD (R142): one sample into the accumulator; a full frame is sent when it reaches `M`. -/
def execAdd (sample : Sample) (s : State) : Host.Outcome State Fault Refusal :=
  .next ((s.addSample sample).respond .cons .nothing)

/-- FLUSH (R143): a partial frame is sent, an empty accumulator sends nothing. -/
def execFlush (s : State) : Host.Outcome State Fault Refusal :=
  .next (s.flushAccumulator.respond .cons .nothing)

end Sys2Proof.Machine
end

