-- ==== Sys2Proof/Machine/Dispatch.lean ====
section
/-! DEFINITION. Machine/Dispatch.lean: what each transaction does, one arm a constructor (R74). -/

namespace Sys2Proof.Machine

def exec (i : Instr) (s : State) : Host.Outcome State Fault Refusal :=
  match i with
  | .push samples => Sys2Proof.Machine.execPush samples s
  | .pop count => Sys2Proof.Machine.execPop count s
  | .pack port samples => Sys2Proof.Machine.execPack port samples s
  | .unpack port bytes => Sys2Proof.Machine.execUnpack port bytes s
  | .rxf bytes => Sys2Proof.Machine.execRxf bytes s
  | .add sample => Sys2Proof.Machine.execAdd sample s
  | .flush => Sys2Proof.Machine.execFlush s
  | .step now ptt captured => Sys2Proof.Machine.execStep now ptt captured s

end Sys2Proof.Machine
end

