-- ==== Sys2Proof/WellFormed.lean ====
section
/-! DEFINITION. WellFormed.lean: the transactions that have an encoding. Every count must fit the 16-bit field `N`
(R71, R74); nothing else of a transaction is restricted. Ranges that an operation checks itself (PACK's `1..M`,
STEP's `N <= K_CAP`) are not part of well-formedness: such a transaction is encodable, and refused when performed. -/

namespace Sys2Proof

/-- A count fits the field `N = CW[15:0]` (R71). -/
def fitsN (n : Nat) : Bool := n ≤ 65535

/-- The transaction has an encoding (R72, R74). -/
def Instr.wellFormed : Instr → Bool
  | .push samples => fitsN samples.length
  | .pop count => fitsN count
  | .pack _ samples => fitsN samples.length
  | .unpack _ bytes => fitsN bytes.length
  | .rxf bytes => fitsN bytes.length
  | .add _ => true
  | .flush => true
  | .step _ _ captured => fitsN captured.length

end Sys2Proof
end

