-- ==== Sys2Proof/Decode.lean ====
section
/-! DEFINITION. Decode.lean: the decoder of R75, total on any byte string, rejecting by the reasons of R201; and the
encoder written from the same tables (R71 to R74). -/

namespace Sys2Proof

open Sys2Proof.Machine

/-- The operation codes of R74. -/
def Op.code : Op → BitVec 4
  | .push => 0x1#4
  | .pop => 0x2#4
  | .pack => 0x3#4
  | .unpack => 0x4#4
  | .rxf => 0x5#4
  | .add => 0x6#4
  | .flush => 0x7#4
  | .step => 0x8#4

/-- The operation of a code, `none` for the reserved codes 0x0 and 0x9 to 0xF (R74, R79). -/
def opOfCode (code : BitVec 4) : Option Op :=
  match code.toNat with
  | 1 => some .push
  | 2 => some .pop
  | 3 => some .pack
  | 4 => some .unpack
  | 5 => some .rxf
  | 6 => some .add
  | 7 => some .flush
  | 8 => some .step
  | _ => none

/-- The format column of R74. -/
def Op.format : Op → Format
  | .push => .cmdS
  | .pop => .cmd
  | .pack => .cmdS
  | .unpack => .cmdB
  | .rxf => .cmdB
  | .add => .cmdImm
  | .flush => .cmd
  | .step => .cmdTS

/-- The length of the operand area in bytes (R72). -/
def areaLength : Format → Nat → Nat
  | .cmd, _ => 0
  | .cmdImm, _ => 0
  | .cmdS, n => 2 * n
  | .cmdB, n => n
  | .cmdTS, n => 4 + 2 * n

/-- The port column of R74: may this operation be issued on this port? -/
def Op.allowedOn : Op → Port → Bool
  | .push, port => port == .prod
  | .pop, port => port == .cons
  | .pack, _ => true
  | .unpack, _ => true
  | .rxf, port => port == .prod
  | .add, port => port == .cons
  | .flush, port => port == .cons
  | .step, port => port == .cons

/-- `CW[31:28]` (R71). -/
def cwOP (cw : Word32) : BitVec 4 := cw.extractLsb' 28 4

/-- `CW[27]` (R71). -/
def cwP (cw : Word32) : Bool := cw.getLsbD 27

/-- `CW[26:16]` (R71). -/
def cwZ (cw : Word32) : BitVec 11 := cw.extractLsb' 16 11

/-- `CW[15:0]` (R71). -/
def cwN (cw : Word32) : BitVec 16 := cw.extractLsb' 0 16

/-- The transaction of an operation, its fields and its operand area (R74, R76 to R78), for operands that R75 has
already checked. -/
def assemble (port : Port) (op : Op) (p : Bool) (n : BitVec 16) (operands : List Byte) : Instr :=
  match op with
  | .push => .push (samplesOfBytes operands)
  | .pop => .pop n.toNat
  | .pack => .pack port (samplesOfBytes operands)
  | .unpack => .unpack port operands
  | .rxf => .rxf operands
  | .add => .add n
  | .flush => .flush
  | .step => .step (nowOfBytes operands) p (samplesOfBytes (operands.drop 4))

/-- The checks of R75 on a command word, in the order of R75: the operation, or the reason of the first check that
fails. -/
def decodeCommandWord (port : Port) (cw : Word32) : Except RefusalReason Op :=
  match opOfCode (cwOP cw) with
  | none => .error .illegalOpcode
  | some op =>
    if cwZ cw ≠ 0#11 then .error .reservedNonzero
    else if cwP cw = true ∧ op ≠ .step then .error .reservedNonzero
    else if op = .flush ∧ cwN cw ≠ 0#16 then .error .reservedNonzero
    else if op.allowedOn port = false then .error .wrongPort
    else .ok op

/-- R75: the transaction at the head of the byte string `T` presented on `port`, with the bytes after it (R81), or
the refusal reason. -/
def decode (port : Port) (T : List Byte) : Decoded :=
  match T with
  | b0 :: b1 :: b2 :: b3 :: area =>
    let cw := word32OfBytes b0 b1 b2 b3
    match decodeCommandWord port cw with
    | .error reason => .refused reason
    | .ok op =>
      let A := areaLength op.format (cwN cw).toNat
      if area.length < A then .refused .truncated
      else .ok (assemble port op (cwP cw) (cwN cw) (area.take A)) (area.drop A)
  | _ => .refused .truncated

/-- The bytes left on a port after a refused transaction. Where the command word has a listed `OP`, its length is
`4 + area_length` (R81; 95_test_vectors.md Program 4). Where the byte string ends too early nothing is left. Where
`OP` is reserved the spec gives no length: `illegalArea` is a free value (log 4). -/
def bytesAfterRefused (illegalArea : Word32 → Nat) (T : List Byte) : List Byte :=
  match T with
  | b0 :: b1 :: b2 :: b3 :: area =>
    let cw := word32OfBytes b0 b1 b2 b3
    match opOfCode (cwOP cw) with
    | none => area.drop (illegalArea cw)
    | some op => area.drop (areaLength op.format (cwN cw).toNat)
  | _ => []

/-- The operation of a transaction (R74). -/
def Instr.op : Instr → Op
  | .push _ => .push
  | .pop _ => .pop
  | .pack _ _ => .pack
  | .unpack _ _ => .unpack
  | .rxf _ => .rxf
  | .add _ => .add
  | .flush => .flush
  | .step _ _ _ => .step

/-- The port a transaction is issued on (R74); PACK and UNPACK name theirs. -/
def Instr.port : Instr → Port
  | .push _ => .prod
  | .pop _ => .cons
  | .pack port _ => port
  | .unpack port _ => port
  | .rxf _ => .prod
  | .add _ => .cons
  | .flush => .cons
  | .step _ _ _ => .cons

/-- The field `P` of a transaction (R71). -/
def Instr.fieldP : Instr → Bool
  | .step _ ptt _ => ptt
  | _ => false

/-- The field `N` of a transaction (R74): a count, a length, ADD's sample (R77), or FLUSH's 0. -/
def Instr.fieldN : Instr → BitVec 16
  | .push samples => BitVec.ofNat 16 samples.length
  | .pop count => BitVec.ofNat 16 count
  | .pack _ samples => BitVec.ofNat 16 samples.length
  | .unpack _ bytes => BitVec.ofNat 16 bytes.length
  | .rxf bytes => BitVec.ofNat 16 bytes.length
  | .add sample => sample
  | .flush => 0#16
  | .step _ _ captured => BitVec.ofNat 16 captured.length

/-- The operand area of a transaction (R72, R73). -/
def Instr.operandArea : Instr → List Byte
  | .push samples => bytesOfSamples samples
  | .pop _ => []
  | .pack _ samples => bytesOfSamples samples
  | .unpack _ bytes => bytes
  | .rxf bytes => bytes
  | .add _ => []
  | .flush => []
  | .step now _ captured => bytesOfWord32 now ++ bytesOfSamples captured

/-- The command word `{OP, P, Z = 0, N}` (R71). -/
def commandWord (op : Op) (p : Bool) (n : BitVec 16) : Word32 :=
  op.code ++ BitVec.ofBool p ++ 0#11 ++ n

/-- The byte string of a transaction (R70, R73, R81). -/
def encode (i : Instr) : List Byte :=
  bytesOfWord32 (commandWord i.op i.fieldP i.fieldN) ++ i.operandArea

/-- The `count` low bytes of a number, least significant first (R73): the table's numbering of a transaction's bits. -/
def bytesOfNat : Nat → Nat → List Byte
  | 0, _ => []
  | count + 1, w => BitVec.ofNat 8 w :: bytesOfNat count (w / 256)

/-- A byte string filled up with zero bytes to a length. -/
def zeroFill (length : Nat) (T : List Byte) : List Byte :=
  T ++ List.replicate (length - T.length) 0#8

/-- A byte string of at least four bytes filled up with zero operand bytes to the length R81 gives it. -/
def zeroFillOperands (T : List Byte) : List Byte :=
  match T with
  | b0 :: b1 :: b2 :: b3 :: _ =>
    let cw := word32OfBytes b0 b1 b2 b3
    match opOfCode (cwOP cw) with
    | none => T
    | some op => zeroFill (4 + areaLength op.format (cwN cw).toNat) T
  | _ => T

/-- The byte string of a word numbered as spec/opcode_table.json numbers it, its missing operands zero. -/
def tableBytes (nbits w : Nat) : List Byte :=
  zeroFillOperands (zeroFill 4 (bytesOfNat ((nbits + 7) / 8) w))

/-- The port a word without a port prefix is presented on: the one R74 requires, and CONS for PACK, UNPACK (R84) and
reserved codes. -/
def defaultPort (T : List Byte) : Port :=
  match T with
  | b0 :: b1 :: b2 :: b3 :: _ =>
    match opOfCode (cwOP (word32OfBytes b0 b1 b2 b3)) with
    | some .push => .prod
    | some .rxf => .prod
    | _ => .cons
  | _ => .cons

/-- What the decoder reads from a word of spec/opcode_table.json, on the port of `defaultPort`. -/
def decodeTableWord (nbits w : Nat) : Option Instr :=
  let T := tableBytes nbits w
  match decode (defaultPort T) T with
  | .ok i _ => some i
  | .refused _ => none

end Sys2Proof
end

