-- ==== Sys2Proof/Machine/Fetch.lean ====
section
/-! DEFINITION. Machine/Fetch.lean: how the next transaction is taken from the streams (R70, R75, R81, R204). -/

namespace Sys2Proof.Machine

/-- The state in which a transaction that decoded is performed: its turn and its bytes are taken (R70, R81). -/
def State.taken (port : Port) (laterTurns : List Port) (rest : List Byte) (s : State) : State :=
  { s with turns := laterTurns }.setStream port rest

/-- The state after a transaction that R75 refuses: its turn and its bytes are taken (log 4), and it is refused (R200). -/
def State.refusedAtDecode (port : Port) (laterTurns : List Port) (reason : RefusalReason) (s : State) : State :=
  (s.taken port laterTurns
    (bytesAfterRefused (Config.illegalArea s.refusals.length) (s.stream port))).refuse port reason

/-- A word of spec/opcode_table.json presented as the very next transaction, on its default port (log 6). -/
def State.presentTableWord (nbits w : Nat) (s : State) : State :=
  let T := tableBytes nbits w
  let port := defaultPort T
  { s with turns := port :: s.turns }.setStream port (T ++ s.stream port)

end Sys2Proof.Machine
end

