-- ==== Sys2Proof/Machine/Step.lean ====
section
/-! DEFINITION. Machine/Step.lean: one step of a run (R60, R70, R204): the agent whose turn it is presents its stream; one
whole transaction is decoded and performed atomically (R55). -/

namespace Sys2Proof.Machine

/-- One step. With no turn left, no agent issues a transaction and nothing changes (log 5). -/
def step (s : State) : Host.Outcome State Fault Refusal :=
  match s.turns with
  | [] => .next s
  | port :: laterTurns =>
    match decode port (s.stream port) with
    | .ok i rest => exec i (s.taken port laterTurns rest)
    | .refused reason => .next (s.refusedAtDecode port laterTurns reason)

/-- The state in which the next step runs a word of spec/opcode_table.json (log 6). -/
def State.withFetchWord (s : State) (nbits w : Nat) : State := s.presentTableWord nbits w

end Sys2Proof.Machine
end

