-- ==== Sys2Proof/Machine/Assembler.lean ====
section
/-! DEFINITION. Machine/Assembler.lean: the assembler syntax of R84, one transaction a line (R85). A line is a list of characters.
What R84 does not say (white space, letter case, number of digits) is log 16. -/

namespace Sys2Proof.Machine

/-- Why a line is rejected (R84: "An assembler must reject …"). -/
inductive AsmError where
  | badPort
  | badMnemonic
  | badOperand
  | badOperandCount
  deriving DecidableEq, Repr

/-- White space between tokens. -/
def isBlank (c : Char) : Bool := c == ' ' || c == '\t'

/-- A token without the white space around it. -/
def trimBlanks (cs : List Char) : List Char := ((cs.dropWhile isBlank).reverse.dropWhile isBlank).reverse

/-- The parts of a list of characters between separators. -/
def splitAtChar (sep : Char) : List Char → List (List Char)
  | [] => [[]]
  | c :: rest =>
    if c == sep then [] :: splitAtChar sep rest
    else
      match splitAtChar sep rest with
      | [] => [[c]]
      | part :: parts => (c :: part) :: parts

/-- A decimal digit's value. -/
def decimalDigit (c : Char) : Option Nat :=
  if 48 ≤ c.toNat ∧ c.toNat ≤ 57 then some (c.toNat - 48) else none

/-- A hexadecimal digit's value. -/
def hexDigit (c : Char) : Option Nat :=
  if 48 ≤ c.toNat ∧ c.toNat ≤ 57 then some (c.toNat - 48)
  else if 65 ≤ c.toNat ∧ c.toNat ≤ 70 then some (c.toNat - 55)
  else if 97 ≤ c.toNat ∧ c.toNat ≤ 102 then some (c.toNat - 87)
  else none

/-- The value of a run of digits in a base, from the value so far. -/
def digitsValue (base : Nat) (digit : Char → Option Nat) : List Char → Nat → Option Nat
  | [], value => some value
  | c :: rest, value =>
    match digit c with
    | none => none
    | some d => digitsValue base digit rest (base * value + d)

/-- An unsigned decimal in `0..limit`. -/
def parseDecimal (limit : Nat) (cs : List Char) : Option Nat :=
  match cs with
  | [] => none
  | _ :: _ =>
    match digitsValue 10 decimalDigit cs 0 with
    | none => none
    | some v => if v ≤ limit then some v else none

/-- A hexadecimal value `0x…` in `0..limit`. -/
def parseHex (limit : Nat) (cs : List Char) : Option Nat :=
  match cs with
  | '0' :: 'x' :: c :: rest =>
    match digitsValue 16 hexDigit (c :: rest) 0 with
    | none => none
    | some v => if v ≤ limit then some v else none
  | _ => none

/-- A sample: a decimal integer in `-32768..32767`, or a pattern `0x0000..0xFFFF` (R84). -/
def parseSample (cs : List Char) : Option Sample :=
  match parseHex 0xFFFF cs with
  | some v => some (BitVec.ofNat 16 v)
  | none =>
    match cs with
    | '-' :: rest => (parseDecimal 32768 rest).map fun v => BitVec.ofInt 16 (-(v : Int))
    | _ => (parseDecimal 32767 cs).map fun v => BitVec.ofNat 16 v

/-- A byte: a hexadecimal value `0x00..0xFF` (R84). -/
def parseByte (cs : List Char) : Option Byte := (parseHex 0xFF cs).map fun v => BitVec.ofNat 8 v

/-- `now`: an unsigned decimal in `0..2^32-1` (R84). -/
def parseNow (cs : List Char) : Option Word32 := (parseDecimal (2 ^ 32 - 1) cs).map fun v => BitVec.ofNat 32 v

/-- `ptt`: `0` or `1` (R84). -/
def parsePtt (cs : List Char) : Option Bool :=
  match cs with
  | ['0'] => some false
  | ['1'] => some true
  | _ => none

/-- Every operand of a list, or `none` if one is rejected. -/
def parseAll {α : Type} (parse : List Char → Option α) : List (List Char) → Option (List α)
  | [] => some []
  | cs :: rest =>
    match parse cs, parseAll parse rest with
    | some a, some as => some (a :: as)
    | _, _ => none

/-- An operand list that is as long as the field `N` allows (R84: at most 65535), or an error. -/
def operandsToInstr {α : Type} (parsed : Option (List α)) (build : List α → Instr) : Except AsmError Instr :=
  match parsed with
  | none => .error .badOperand
  | some as => if fitsN as.length then .ok (build as) else .error .badOperandCount

/-- An optional value, or an operand error. -/
def operandToInstr {α : Type} (parsed : Option α) (build : α → Instr) : Except AsmError Instr :=
  match parsed with
  | none => .error .badOperand
  | some a => .ok (build a)

/-- The mnemonic of an operation (R74, R84). -/
def mnemonicOf : Op → List Char
  | .push => ['P', 'U', 'S', 'H']
  | .pop => ['P', 'O', 'P']
  | .pack => ['P', 'A', 'C', 'K']
  | .unpack => ['U', 'N', 'P', 'A', 'C', 'K']
  | .rxf => ['R', 'X', 'F']
  | .add => ['A', 'D', 'D']
  | .flush => ['F', 'L', 'U', 'S', 'H']
  | .step => ['S', 'T', 'E', 'P']

/-- The transaction of a mnemonic and its operand tokens (R84); PACK and UNPACK are issued on `port`. -/
def parseInstr (port : Port) (mnemonic : List Char) (operands : List (List Char)) : Except AsmError Instr :=
  match mnemonic with
  | ['P', 'U', 'S', 'H'] => operandsToInstr (parseAll parseSample operands) .push
  | ['P', 'A', 'C', 'K'] => operandsToInstr (parseAll parseSample operands) (.pack port)
  | ['U', 'N', 'P', 'A', 'C', 'K'] => operandsToInstr (parseAll parseByte operands) (.unpack port)
  | ['R', 'X', 'F'] => operandsToInstr (parseAll parseByte operands) .rxf
  | ['P', 'O', 'P'] =>
    match operands with
    | [count] => operandToInstr (parseDecimal 65535 count) .pop
    | _ => .error .badOperandCount
  | ['A', 'D', 'D'] =>
    match operands with
    | [sample] => operandToInstr (parseSample sample) .add
    | _ => .error .badOperandCount
  | ['F', 'L', 'U', 'S', 'H'] =>
    match operands with
    | [] => .ok .flush
    | _ => .error .badOperandCount
  | ['S', 'T', 'E', 'P'] =>
    match operands with
    | now :: ptt :: captured =>
      match parseNow now, parsePtt ptt with
      | some now, some ptt => operandsToInstr (parseAll parseSample captured) (.step now ptt)
      | _, _ => .error .badOperand
    | _ => .error .badOperandCount
  | _ => .error .badMnemonic

/-- The operand tokens after a mnemonic: separated by commas, none if nothing stands there. -/
def operandTokens (cs : List Char) : List (List Char) :=
  if trimBlanks cs = [] then [] else (splitAtChar ',' cs).map trimBlanks

/-- The first word of a line without its port prefix and comment. -/
def firstWord (cs : List Char) : List Char := (trimBlanks cs).takeWhile fun c => !isBlank c

/-- The part of a line before its comment (R84). -/
def withoutComment (line : List Char) : List Char := line.takeWhile fun c => c != ';'

/-- The transaction of a line without its port prefix and comment. -/
def parseBody (port : Port) (cs : List Char) : Except AsmError Instr :=
  parseInstr port (firstWord cs) (operandTokens ((trimBlanks cs).dropWhile fun c => !isBlank c))

/-- The port a prefix names (R84). -/
def parsePort (cs : List Char) : Option Port :=
  match trimBlanks cs with
  | ['P', 'R', 'O', 'D'] => some .prod
  | ['C', 'O', 'N', 'S'] => some .cons
  | _ => none

/-- The port and the byte string of a line (R84), `none` for a line with no transaction on it. With a prefix the line is
on that port, even where the core will refuse it (95_test_vectors.md Program 4); without one it is on the port R74
requires, PACK and UNPACK on CONS. -/
def assembleLine (line : List Char) : Except AsmError (Option (Port × List Byte)) :=
  match splitAtChar ':' (withoutComment line) with
  | [body] =>
    if trimBlanks body = [] then .ok none
    else
      match parseBody .cons body with
      | .error e => .error e
      | .ok i => .ok (some (i.port, encode i))
  | [portName, body] =>
    match parsePort portName with
    | none => .error .badPort
    | some port =>
      match parseBody port body with
      | .error e => .error e
      | .ok i => .ok (some (port, encode i))
  | _ => .error .badPort

end Sys2Proof.Machine
end

