-- ==== Sys2Proof/Machine/Construct.lean ====
section
/-! DEFINITION. Machine/Construct.lean: construction, the core's reset (R220), and its check (R7). -/

namespace Sys2Proof.Machine

/-- The construction check of R7. -/
def legal (cfg : Config) : Bool :=
  1 ≤ cfg.C && (1 ≤ cfg.M && cfg.M ≤ 65535) && cfg.HDR.length == cfg.H && cfg.H + 2 * cfg.M ≤ cfg.P_MAX
    && cfg.T_DWELL ≤ 2 ^ (Config.W_T - 1) - 1 && 1 ≤ cfg.K_POP && (1 ≤ cfg.K_CAP && cfg.K_CAP ≤ 65535)
    && 1 ≤ cfg.RATE

/-- `Init(cfg, now0)` (R220) over storage contents the spec leaves unspecified (R22, R29): `RB.buf` and `ACC.data` hold
the given samples. A configuration that breaks R7 is refused, and no core exists (R201). -/
def initWith (cfg : Config) (now0 : Word32) (buf data : List Sample) : Host.Outcome State Fault Refusal :=
  if legal cfg then .next (State.constructed cfg now0 buf data) else .refused .configInvalid

/-- `Init(cfg, now0)` (R220), the storage zero (DESIGN CHOICE, log 2). -/
def init (cfg : Config) (now0 : Word32) : Host.Outcome State Fault Refusal :=
  initWith cfg now0 (List.replicate cfg.C 0#16) (List.replicate cfg.M 0#16)

end Sys2Proof.Machine
end

