-- ==== Sys2Proof/Safety.lean ====
section
/-! DEFINITION. Safety.lean: the terms the claims are stated in: the state invariants of R22 to R30, R37 and R82, runs of
transactions, and the views of a state that a claim compares. -/

namespace Sys2Proof.Machine

/-- `last(k, l)` (R9): the last `k` elements, or all of a shorter list. -/
def lastSamples (k : Nat) (l : List Sample) : List Sample := l.drop (l.length - k)

/-- The core is built from a legal configuration (R7) and its storage is in order: the arrays have their sizes (R22,
R29), the cursors and the occupancy are in range and agree (R23 to R26), and the accumulator is not full (R30). -/
structure StorageInv (s : State) : Prop where
  legalConfig : legal s.cfg = true
  bufSize : s.rb.buf.length = s.cfg.C
  rdRange : s.rb.rd < s.cfg.C
  wrRange : s.rb.wr < s.cfg.C
  cntRange : s.rb.cnt ≤ s.cfg.C
  cursors : s.rb.wr = (s.rb.rd + s.rb.cnt) % s.cfg.C
  dataSize : s.acc.data.length = s.cfg.M
  lenRange : s.acc.len < s.cfg.M

/-- `seq(RB)` of a state (R27). -/
def State.seq (s : State) : List Sample := s.rb.seq s.cfg.C

/-- Whether the sink is started, as its events say (R37, R190). -/
def sinkStarted (out : List Event) : Bool :=
  out.foldl (fun on e => match e with | .snkStart _ => true | .snkStop => false | _ => on) false

/-- Whether capture is started, as its events say (R37, R190). -/
def captureStarted (out : List Event) : Bool :=
  out.foldl (fun on e => match e with | .capStart => true | .capStop => false | _ => on) false

/-- Whether the indicator is on, as its events say (R37, R190). -/
def indicatorOn (out : List Event) : Bool :=
  out.foldl (fun on e => match e with | .ind b => b | _ => on) false

/-- R37: in RECEIVE the sink runs, capture is stopped and the indicator is off; in TRANSMIT the other way round. -/
def CollaboratorsFollowPhase (s : State) : Prop :=
  sinkStarted s.out = (s.rc.phase == .receive) ∧ captureStarted s.out = (s.rc.phase == .transmit)
    ∧ indicatorOn s.out = (s.rc.phase == .transmit)

/-- Every frame sent carries `N` samples behind the header, `1 <= N <= M`, and fits the radio (R82, R7). -/
def SentFramesLegal (s : State) : Prop :=
  ∀ f, Event.txf f ∈ s.out →
    f.take s.cfg.H = s.cfg.HDR ∧ f.length ≤ s.cfg.P_MAX ∧
      ∃ N, 1 ≤ N ∧ N ≤ s.cfg.M ∧ f.length = s.cfg.H + 2 * N

/-- The same core state and the same trace (R20, R190), whatever was returned, reported or absorbed on the way. -/
def SameCore (s t : State) : Prop :=
  s.cfg = t.cfg ∧ s.rb = t.rb ∧ s.acc = t.acc ∧ s.rc = t.rc ∧ s.diag = t.diag ∧ s.out = t.out

/-- Transactions performed one after another (R60). -/
def execAll : List Instr → State → Host.Outcome State Fault Refusal
  | [], s => .next s
  | i :: rest, s =>
    match exec i s with
    | .next t => execAll rest t
    | .fault r => .fault r
    | .refused r => .refused r

/-- Does a transaction perform a POP: POP itself (R101), or a STEP that takes the RECEIVE body (R160, R164)? -/
def PerformsPop (s : State) : Instr → Prop
  | .pop _ => True
  | .step now ptt captured =>
    s.rc.phase = .receive ∧ captured = [] ∧ ¬ (s.cfg.T_DWELL ≤ (now - s.rc.t_entry).toNat ∧ ptt = true)
  | _ => False

/-- The samples a transaction brings to the ring: PUSH's (R100), and those of a well-formed inbound frame (R140). -/
def broughtSamples (cfg : Config) : Instr → List Sample
  | .push samples => samples
  | .rxf bytes =>
    match unpackFrame cfg bytes with
    | .ok samples => samples
    | .malformed => []
  | _ => []

/-- The samples a run brings to the ring, in order. -/
def pushedSamples (cfg : Config) (run : List Instr) : List Sample := run.flatMap (broughtSamples cfg)

/-- The samples a result returns (R101). -/
def Result.returned : Result → List Sample
  | .samples out => out
  | _ => []

/-- The samples an event writes to the sink (R164, R190). -/
def Event.written : Event → List Sample
  | .snkWr samples => samples
  | _ => []

/-- The samples returned to an agent, or written to the sink, between two states of a run. -/
def handedOut (s t : State) : List Sample :=
  (t.results.drop s.results.length).flatMap (fun r => r.2.returned) ++ (t.out.drop s.out.length).flatMap Event.written

/-- The buffered samples that a run hands out, by POP or by STEP, in order, without the silence that fills a shortfall:
no more than were buffered before the transaction (R101, R164). -/
def deliveredSamples : List Instr → State → List Sample
  | [], _ => []
  | i :: rest, s =>
    match exec i s with
    | .next t => (handedOut s t).take s.rb.cnt ++ deliveredSamples rest t
    | _ => []

/-- The frames `PACK(t[j*M .. j*M+M-1])` of R144, one `TXF` for each full chunk of a run of samples. -/
def fullFrames (cfg : Config) (samples : List Sample) : List Event :=
  (List.range (samples.length / cfg.M)).map fun j => .txf (buildFrame cfg ((samples.drop (j * cfg.M)).take cfg.M))

/-- The samples after the last full chunk, `t[T - (T mod M) .. T-1]` (R144). -/
def unframed (cfg : Config) (samples : List Sample) : List Sample :=
  samples.drop (samples.length - samples.length % cfg.M)

/-- The frame a FLUSH sends, if any (R143). -/
def flushFrames (s : State) : List Event :=
  if s.acc.len > 0 then [.txf (buildFrame s.cfg s.acc.collected)] else []

/-- The frames of a trace, in the order they were sent (R61, R190). -/
def framesSent (out : List Event) : List (List Byte) :=
  out.filterMap fun e => match e with | .txf f => some f | _ => none

/-- What the radio's next `n` answers add to the absorbed conditions when `n` frames are sent: TX_SEND_FAIL for each
rejected one (R199; log 8). -/
def sendConditions (n : Nat) (s : State) : List Condition :=
  ((s.sends.take n).filter fun a => a == .rejected).map fun _ => .txSendFail

/-- Does a PUSH of these samples drop at least one (R100, R102)? -/
def drops (s : State) (samples : List Sample) : Bool := s.cfg.C < s.rb.cnt + samples.length

/-- Does a POP of `n` samples fall short (R101)? -/
def fallsShort (s : State) (n : Nat) : Bool := s.rb.cnt < n

/-- The counters after a PUSH (R33). -/
def diagAfterPush (s : State) (samples : List Sample) : Diagnostics :=
  if s.cfg.DIAG ∧ drops s samples then { s.diag with drop_events := s.diag.drop_events + 1#32 } else s.diag

/-- The counters after a POP (R34). -/
def diagAfterPop (s : State) (n : Nat) : Diagnostics :=
  if s.cfg.DIAG ∧ fallsShort s n then { s.diag with underflow_events := s.diag.underflow_events + 1#32 } else s.diag

end Sys2Proof.Machine
end

