-- ==== Sys2Proof/Certificates/Slice0/Obligations.lean ====
section
/-! DEFINITION. Certificates/Slice0/Obligations.lean: the statements for the provers. Each is about every configuration (a
field of State) and every state, with StorageInv as a premise where it would fail only in states no run reaches. Updates are
written out field by field: what an update does not name is unchanged (the frame). The lists `results`, `refusals` and
`absorbed` that updates name are the model's record of what the rules return, report and absorb (log 7), and `sends` its
record of the radio's answers (log 8). -/

open Sys2Proof Sys2Proof.Machine

/-! ### Encoding and decoding (30_encoding.md) -/

/-- The nine transactions of 30_encoding.md §8, and three with extreme operands, decode to what they stand for. -/
def Obligations.SpecExampleTransactionsDecode : Prop :=
  decode .prod [0x03, 0x00, 0x00, 0x10, 0x0A, 0x00, 0x14, 0x00, 0x1E, 0x00] = .ok (.push [10#16, 20#16, 30#16]) []
  ∧ decode .cons [0x03, 0x00, 0x00, 0x20] = .ok (.pop 3) []
  ∧ decode .cons [0x01, 0x00, 0x00, 0x30, 0xFF, 0xFF] = .ok (.pack .cons [0xFFFF#16]) []
  ∧ decode .prod [0x04, 0x00, 0x00, 0x40, 0xA5, 0x5A, 0x34, 0x12] = .ok (.unpack .prod [0xA5, 0x5A, 0x34, 0x12]) []
  ∧ decode .prod [0x08, 0x00, 0x00, 0x50, 0xA5, 0x5A, 0x0A, 0x00, 0x14, 0x00, 0x1E, 0x00]
      = .ok (.rxf [0xA5, 0x5A, 0x0A, 0x00, 0x14, 0x00, 0x1E, 0x00]) []
  ∧ decode .cons [0xCE, 0xFF, 0x00, 0x60] = .ok (.add 0xFFCE#16) []
  ∧ decode .cons [0x00, 0x00, 0x00, 0x70] = .ok .flush []
  ∧ decode .cons [0x00, 0x00, 0x00, 0x88, 0xE8, 0x03, 0x00, 0x00] = .ok (.step 1000#32 true []) []
  ∧ decode .cons [0x02, 0x00, 0x00, 0x88, 0xDC, 0x05, 0x00, 0x00, 0x64, 0x00, 0xCE, 0xFF]
      = .ok (.step 1500#32 true [100#16, 0xFFCE#16]) []
  ∧ decode .prod [0x02, 0x00, 0x00, 0x10, 0x00, 0x80, 0xFF, 0x7F] = .ok (.push [0x8000#16, 0x7FFF#16]) []
  ∧ decode .cons [0xFF, 0xFF, 0x00, 0x20] = .ok (.pop 65535) []
  ∧ decode .cons [0x00, 0x00, 0x00, 0x80, 0xE8, 0x03, 0x00, 0x00, 0x00, 0x00, 0x00, 0x70]
      = .ok (.step 1000#32 false []) [0x00, 0x00, 0x00, 0x70]

/-- Decoding the encoding of a well-formed transaction, on its port and with anything after it, gives the transaction back
and leaves what came after (R71 to R74, R76 to R78, R81). -/
def Obligations.DecodeOfEncode : Prop :=
  ∀ (i : Instr) (rest : List Byte), i.wellFormed = true → decode i.port (encode i ++ rest) = .ok i rest

/-- Whatever the decoder accepts is a well-formed transaction of that port, and the bytes it took are its encoding: every
byte string has at most one meaning (R71 to R81). -/
def Obligations.EncodeOfDecode : Prop :=
  ∀ (port : Port) (T : List Byte) (i : Instr) (rest : List Byte),
    decode port T = .ok i rest → i.wellFormed = true ∧ i.port = port ∧ T = encode i ++ rest

/-- R75: the checks, in their order, on the numbers in the four command-word bytes; and what passes them. -/
def Obligations.DecodeChecksInOrder : Prop :=
  (∀ (port : Port) (T : List Byte), T.length < 4 → decode port T = .refused .truncated)
  ∧ ∀ (port : Port) (b0 b1 b2 b3 : Byte) (area : List Byte),
    let cw := b0.toNat + 256 * b1.toNat + 65536 * b2.toNat + 16777216 * b3.toNat
    let op := cw / 2 ^ 28
    let p := cw / 2 ^ 27 % 2
    let z := cw / 2 ^ 16 % 2 ^ 11
    let n := cw % 2 ^ 16
    let A := if op = 1 ∨ op = 3 then 2 * n else if op = 4 ∨ op = 5 then n else if op = 8 then 4 + 2 * n else 0
    let outcome := decode port (b0 :: b1 :: b2 :: b3 :: area)
    if op = 0 ∨ 9 ≤ op then outcome = .refused .illegalOpcode
    else if z ≠ 0 then outcome = .refused .reservedNonzero
    else if p = 1 ∧ op ≠ 8 then outcome = .refused .reservedNonzero
    else if op = 7 ∧ n ≠ 0 then outcome = .refused .reservedNonzero
    else if port = .prod ∧ (op = 2 ∨ op = 6 ∨ op = 7 ∨ op = 8) then outcome = .refused .wrongPort
    else if port = .cons ∧ (op = 1 ∨ op = 5) then outcome = .refused .wrongPort
    else if area.length < A then outcome = .refused .truncated
    else ∃ i, outcome = .ok i (area.drop A) ∧ i.op.code.toNat = op ∧ i.port = port ∧ i.fieldP = decide (p = 1)
      ∧ i.fieldN.toNat = n ∧ i.operandArea = area.take A

/-- spec/opcode_table.json: on a port that allows the operation, a command word passes the decoder as that operation
exactly when the row's mask and match say so. -/
def Obligations.CommandWordMatchesItsTableRow : Prop :=
  ∀ (port : Port) (cw : Word32) (op : Op), op.allowedOn port = true →
    (decodeCommandWord port cw = .ok op ↔
      match op with
      | .push => cw &&& 0xFFFF0000#32 = 0x10000000#32
      | .pop => cw &&& 0xFFFF0000#32 = 0x20000000#32
      | .pack => cw &&& 0xFFFF0000#32 = 0x30000000#32
      | .unpack => cw &&& 0xFFFF0000#32 = 0x40000000#32
      | .rxf => cw &&& 0xFFFF0000#32 = 0x50000000#32
      | .add => cw &&& 0xFFFF0000#32 = 0x60000000#32
      | .flush => cw &&& 0xFFFFFFFF#32 = 0x70000000#32
      | .step => cw &&& 0xF7FF0000#32 = 0x80000000#32)

/-- A line that assembles is one transaction, of the operation its mnemonic names (R84, R85). Without a port prefix it is on
the port R74 requires, PACK and UNPACK on CONS, and decodes to that transaction with nothing left. With a prefix it is on the
port the prefix names, and decodes so where the operation may be issued there; elsewhere the core refuses it with WRONG_PORT
(R75). That a prefix may name a port the operation may not use is the model's reading (log 16; 95_test_vectors.md
Program 4). -/
def Obligations.AssembledLineIsOneTransaction : Prop :=
  ∀ (line : List Char) (port : Port) (T : List Byte), assembleLine line = .ok (some (port, T)) →
    ∃ (i : Instr) (body : List Char), i.wellFormed = true ∧ T = encode i ∧ firstWord body = mnemonicOf i.op
      ∧ ((splitAtChar ':' (withoutComment line) = [body] ∧ port = i.port ∧ decode port T = .ok i []
          ∧ (i.op = .pack ∨ i.op = .unpack → port = .cons))
        ∨ ∃ portName, splitAtChar ':' (withoutComment line) = [portName, body] ∧ parsePort portName = some port
          ∧ decode port T = if i.op.allowedOn port then .ok i [] else .refused .wrongPort)

/-! ### Steps, refusals and runs (R55, R60, R70, R171, R200) -/

/-- When the bytes the agent whose turn it is presents decode to `i`, the step is `exec i` at the state that differs only
in that the turn and the bytes are taken (R55, R70, R81). -/
def Obligations.StepRunsTheDecodedTransaction : Prop :=
  ∀ (s : State) (port : Port) (later : List Port) (i : Instr) (rest : List Byte),
    s.turns = port :: later → decode port (s.stream port) = .ok i rest →
      step s = exec i
        { s with
          turns := later
          prodStream := if port = .prod then rest else s.prodStream
          consStream := if port = .cons then rest else s.consStream }

/-- With no turn left, no agent issues a transaction and nothing changes (the model's choice, log 5). -/
def Obligations.StepWithoutTurnChangesNothing : Prop :=
  ∀ s : State, s.turns = [] → step s = .next s

/-- A word of spec/opcode_table.json, presented as the next transaction, is run by the very next step (log 6). -/
def Obligations.StepRunsThePresentedTableWord : Prop :=
  ∀ (s : State) (w : Nat) (i : Instr), decodeTableWord 32 w = some i → step (s.withFetchWord 32 w) = exec i s

/-- The core never halts and raises no exception: every state accepts a further step and a further transaction (R171,
R194, R64). That a refused transaction is a next state is the model's choice (log 3), and so is the step with no turn left,
which changes nothing (log 5): the rules do not say either. -/
def Obligations.EveryStepCompletes : Prop :=
  ∀ s : State, (∃ t, step s = .next t) ∧ ∀ i : Instr, ∃ t, exec i s = .next t

/-- R200: a transaction refused by the decoder, or by the operation, changes no core state and emits no event; it marks
the run REFUSED, reports its reason (log 7), and takes its turn and bytes of its own port alone; no later step clears the
mark. -/
def Obligations.RefusedTransactionLeavesTheCore : Prop :=
  (∀ (s : State) (port : Port) (later : List Port) (r : RefusalReason),
    s.turns = port :: later → decode port (s.stream port) = .refused r →
      ∃ rest, step s = .next
        { s with
          refused := true
          refusals := s.refusals ++ [(port, r)]
          turns := later
          prodStream := if port = .prod then rest else s.prodStream
          consStream := if port = .cons then rest else s.consStream })
  ∧ (∀ (i : Instr) (s t : State), exec i s = .next t → t.refusals ≠ s.refusals →
      ∃ r, t = { s with refused := true, refusals := s.refusals ++ [(i.port, r)] })
  ∧ (∀ s t : State, step s = .next t → s.refused = true → t.refused = true)

/-- The port split (R224): every operation presented on a port R74 does not allow it on is refused with WRONG_PORT, and
the next transaction of that port is the one after it (R81; 95_test_vectors.md Program 4). -/
def Obligations.WrongPortIsRefused : Prop :=
  ∀ (s : State) (port : Port) (later : List Port) (i : Instr) (rest : List Byte),
    i.wellFormed = true → i.op.allowedOn port = false → s.turns = port :: later → s.stream port = encode i ++ rest →
      step s = .next
        { s with
          refused := true
          refusals := s.refusals ++ [(port, .wrongPort)]
          turns := later
          prodStream := if port = .prod then rest else s.prodStream
          consStream := if port = .cons then rest else s.consStream }

/-! ### Construction and invariants (R7, R26, R30, R35 to R37, R82, R220) -/

/-- R7: construction succeeds exactly for the configurations that meet its eight conditions; any other is refused with
CONFIG_INVALID. -/
def Obligations.ConstructionIsCheckedByR7 : Prop :=
  ∀ (cfg : Config) (now0 : Word32) (buf data : List Sample),
    let ok := 1 ≤ cfg.C ∧ (1 ≤ cfg.M ∧ cfg.M ≤ 65535) ∧ cfg.HDR.length = cfg.H ∧ cfg.H + 2 * cfg.M ≤ cfg.P_MAX
      ∧ cfg.T_DWELL ≤ 2147483647 ∧ 1 ≤ cfg.K_POP ∧ (1 ≤ cfg.K_CAP ∧ cfg.K_CAP ≤ 65535) ∧ 1 ≤ cfg.RATE
    (ok → ∃ t, initWith cfg now0 buf data = .next t) ∧ (¬ ok → initWith cfg now0 buf data = .refused .configInvalid)

/-- R220: what construction leaves, whatever the storage contents it starts from; a configuration that breaks R7 is
refused. Capture is stopped and the indicator is off, with no event for either. -/
def Obligations.ConstructionLeavesTheResetValues : Prop :=
  ∀ (cfg : Config) (now0 : Word32) (buf data : List Sample),
    (legal cfg = true →
      ∃ t, initWith cfg now0 buf data = .next t
        ∧ t.rb = { buf := buf, rd := 0, wr := 0, cnt := 0 } ∧ t.acc = { data := data, len := 0 }
        ∧ t.rc = { phase := .receive, t_entry := now0 }
        ∧ t.diag = { drop_events := 0#32, underflow_events := 0#32 }
        ∧ t.out = [.snkStart cfg.RATE] ∧ t.refused = false ∧ t.cfg = cfg
        ∧ captureStarted t.out = false ∧ indicatorOn t.out = false)
    ∧ (legal cfg = false → initWith cfg now0 buf data = .refused .configInvalid)

/-- State.reset is `Init` of the spec's test configuration at clock 0, and meets both invariants. The choice of that
configuration is the model's (log 1), and so are the zero storage contents (log 2). -/
def Obligations.ResetIsConstructedAndInvariant : Prop :=
  init Config.testConfiguration 0#32 = .next State.reset ∧ StorageInv State.reset
    ∧ CollaboratorsFollowPhase State.reset ∧ SentFramesLegal State.reset

/-- R26 (with R7, R22, R29, R30): the storage invariant holds after construction, whatever the storage contents, and after
every step; with a full buffer the cursors are equal. -/
def Obligations.StorageInvariantHoldsAfterEveryStep : Prop :=
  (∀ (cfg : Config) (now0 : Word32) (buf data : List Sample) (t : State),
    buf.length = cfg.C → data.length = cfg.M → initWith cfg now0 buf data = .next t → StorageInv t)
  ∧ (∀ s t : State, StorageInv s → step s = .next t → StorageInv t)
  ∧ ∀ s : State, StorageInv s → s.rb.cnt = s.cfg.C → s.rb.wr = s.rb.rd

/-- R37: after construction and after every step the sink, the capture source and the indicator are as the phase says. -/
def Obligations.CollaboratorsFollowThePhase : Prop :=
  (∀ (cfg : Config) (now0 : Word32) (buf data : List Sample) (t : State),
    initWith cfg now0 buf data = .next t → CollaboratorsFollowPhase t)
  ∧ ∀ s t : State, CollaboratorsFollowPhase s → step s = .next t → CollaboratorsFollowPhase t

/-- R82: every frame ever sent is the header followed by `N` samples, `1 <= N <= M`, and fits the radio's payload. -/
def Obligations.EverySentFrameIsLegal : Prop :=
  ∀ s t : State, StorageInv s → SentFramesLegal s → step s = .next t → SentFramesLegal t

/-- The configuration never changes (R35), and every trace of a run only grows (R10, R190, R231): a step appends to what
was emitted, returned, reported and absorbed, and takes nothing back. -/
def Obligations.StepKeepsConfigAndExtendsTraces : Prop :=
  ∀ s t : State, step s = .next t →
    t.cfg = s.cfg ∧ s.out <+: t.out ∧ s.results <+: t.results ∧ s.refusals <+: t.refusals ∧ s.absorbed <+: t.absorbed

/-- R36, "written by", and the frame of every transaction on the state of the environment: what changed tells which
transaction wrote it. -/
def Obligations.StateIsWrittenOnlyByItsOwners : Prop :=
  ∀ (i : Instr) (s t : State), exec i s = .next t →
    (t.rb ≠ s.rb → i.op = .push ∨ i.op = .rxf ∨ i.op = .pop ∨ (i.op = .step ∧ s.rc.phase = .receive))
    ∧ (t.diag.drop_events ≠ s.diag.drop_events → i.op = .push ∨ i.op = .rxf)
    ∧ (t.diag.underflow_events ≠ s.diag.underflow_events → i.op = .pop ∨ (i.op = .step ∧ s.rc.phase = .receive))
    ∧ (t.acc ≠ s.acc → i.op = .add ∨ i.op = .flush ∨ (i.op = .step ∧ s.rc.phase = .transmit))
    ∧ (t.rc ≠ s.rc → i.op = .step)
    ∧ (t.out ≠ s.out → i.op = .add ∨ i.op = .flush ∨ i.op = .step)
    ∧ t.cfg = s.cfg ∧ t.prodStream = s.prodStream ∧ t.consStream = s.consStream ∧ t.turns = s.turns

/-! ### SampleRingBuffer (40_ring_buffer.md) -/

/-- R102: PUSH completes; the content becomes the last `C` of what was there and what came; the occupancy, the number
dropped, the write cursor, the counter (R33) and the absorbed condition (R196) are as the rules say; nothing else
changes. -/
def Obligations.PushKeepsTheLastSamples : Prop :=
  ∀ (s : State) (l : List Sample), StorageInv s →
    ∃ rb : Ring, exec (.push l) s = .next
        { s with
          rb := rb
          diag := diagAfterPush s l
          absorbed := s.absorbed ++ (if s.cfg.C < s.rb.cnt + l.length then [.rbDrop] else [])
          results := s.results ++ [(.prod, .nothing)] }
      ∧ rb.seq s.cfg.C = lastSamples s.cfg.C (s.seq ++ l)
      ∧ rb.cnt = min s.cfg.C (s.rb.cnt + l.length)
      ∧ rb.wr = (s.rb.wr + l.length) % s.cfg.C
      ∧ (Ring.push s.cfg.C l s.rb 0).2 = s.rb.cnt + l.length - s.cfg.C

/-- R103: POP completes; it returns the buffered samples it takes and then silence, and removes them from the content; the
write cursor and the storage stay; the counter (R34) and the absorbed condition (R197) are as the rules say; nothing else
changes. -/
def Obligations.PopReturnsOldestThenSilence : Prop :=
  ∀ (s : State) (n : Nat), StorageInv s →
    ∃ rb : Ring, exec (.pop n) s = .next
        { s with
          rb := rb
          diag := diagAfterPop s n
          absorbed := s.absorbed ++ (if s.rb.cnt < n then [.rbUnderflow] else [])
          results := s.results ++
            [(.cons, .samples (s.seq.take (min s.seq.length n) ++ List.replicate (n - min s.seq.length n) 0#16))] }
      ∧ rb.seq s.cfg.C = s.seq.drop (min s.seq.length n)
      ∧ rb.cnt = s.rb.cnt - min s.rb.cnt n
      ∧ rb.rd = (s.rb.rd + min s.rb.cnt n) % s.cfg.C
      ∧ rb.wr = s.rb.wr ∧ rb.buf = s.rb.buf

/-- R106: POP of `n` from an empty buffer returns `n` zeros; from `m < n` samples, the `m` samples and `n - m` zeros. -/
def Obligations.UnderflowIsSilence : Prop :=
  ∀ (s : State) (n : Nat),
    (s.rb.cnt = 0 → ∃ t, exec (.pop n) s = .next t
      ∧ t.results = s.results ++ [(.cons, .samples (List.replicate n 0#16))])
    ∧ (s.rb.cnt < n → ∃ t, exec (.pop n) s = .next t
      ∧ t.results = s.results ++ [(.cons, .samples (s.seq ++ List.replicate (n - s.rb.cnt) 0#16))])

/-- R104: PUSHes of at most `C` samples in all into an empty buffer, then a POP of the same total, return exactly the pushed
samples in push order. -/
def Obligations.FifoUnderCapacity : Prop :=
  ∀ (s : State) (ls : List (List Sample)), StorageInv s → s.rb.cnt = 0 → ls.flatten.length ≤ s.cfg.C →
    ∃ t u, execAll (ls.map .push) s = .next t ∧ exec (.pop ls.flatten.length) t = .next u
      ∧ u.results = t.results ++ [(.cons, .samples ls.flatten)]

/-- R105: `C + k` samples, `k > 0`, pushed into an empty buffer by one PUSH or several, leave exactly the last `C`, in
order. -/
def Obligations.OverflowDropsTheOldest : Prop :=
  ∀ (s : State) (ls : List (List Sample)) (k : Nat), StorageInv s → s.rb.cnt = 0 → 0 < k →
    ls.flatten.length = s.cfg.C + k →
    ∃ t, execAll (ls.map .push) s = .next t ∧ t.seq = ls.flatten.drop k ∧ t.seq.length = s.cfg.C

/-- R60, over any run of both agents: what POPs return and STEPs write to the sink (silence aside), and then what is still
buffered, is a subsequence, in order, of what was buffered and what PUSH and RXF brought: FIFO, no sample twice, none after
a later one; and all of it, if there was never more than fits. -/
def Obligations.DeliveryIsInPushOrder : Prop :=
  ∀ (run : List Instr) (s : State), StorageInv s →
    ∃ t, execAll run s = .next t
      ∧ (deliveredSamples run s ++ t.seq).Sublist (s.seq ++ pushedSamples s.cfg run)
      ∧ (s.rb.cnt + (pushedSamples s.cfg run).length ≤ s.cfg.C →
          deliveredSamples run s ++ t.seq = s.seq ++ pushedSamples s.cfg run)

/-! ### FrameCodec (41_frame_codec.md) -/

/-- R120: PACK of `1..M` samples returns the header and, for each sample, its low byte and its high byte, and changes
nothing else; any other count is refused with OPERAND_RANGE. -/
def Obligations.PackBuildsTheWireFrame : Prop :=
  ∀ (s : State) (port : Port) (l : List Sample), StorageInv s →
    (1 ≤ l.length ∧ l.length ≤ s.cfg.M →
      ∃ f : List Byte, exec (.pack port l) s = .next { s with results := s.results ++ [(port, .frame f)] }
        ∧ f.length = s.cfg.H + 2 * l.length ∧ f.take s.cfg.H = s.cfg.HDR
        ∧ ∀ i < l.length, (f.getD (s.cfg.H + 2 * i) 0#8).toNat = (l.getD i 0#16).toNat % 256
            ∧ (f.getD (s.cfg.H + 2 * i + 1) 0#8).toNat = (l.getD i 0#16).toNat / 256)
    ∧ (l.length < 1 ∨ s.cfg.M < l.length →
      exec (.pack port l) s =
        .next { s with refused := true, refusals := s.refusals ++ [(port, .operandRange)] })

/-- R121: UNPACK returns MALFORMED on exactly the four conditions, and otherwise the `(L - H) / 2` samples of the payload,
each from its two bytes, low byte first; it changes nothing else. -/
def Obligations.UnpackReadsTheWireFrame : Prop :=
  ∀ (s : State) (port : Port) (b : List Byte),
    let L := b.length
    let H := s.cfg.H
    let malformed := L < H + 2 ∨ (L - H) % 2 ≠ 0 ∨ s.cfg.M < (L - H) / 2
      ∨ (s.cfg.CHECK_HEADER = true ∧ b.take H ≠ s.cfg.HDR.take H)
    ∃ r : Unpacked, exec (.unpack port b) s = .next { s with results := s.results ++ [(port, .unpacked r)] }
      ∧ (malformed → r = .malformed)
      ∧ (¬ malformed → ∃ l, r = .ok l ∧ l.length = (L - H) / 2
          ∧ ∀ i < l.length, (l.getD i 0#16).toNat
              = (b.getD (H + 2 * i) 0#8).toNat + 256 * (b.getD (H + 2 * i + 1) 0#8).toNat)

/-- R122: for `1..M` samples UNPACK of PACK is the samples, and the first `H` bytes of the frame are the header, for either
value of CHECK_HEADER and on either port. -/
def Obligations.UnpackOfPackRoundTrips : Prop :=
  ∀ (s : State) (p q : Port) (l : List Sample), StorageInv s → 1 ≤ l.length → l.length ≤ s.cfg.M →
    ∃ f : List Byte, exec (.pack p l) s = .next { s with results := s.results ++ [(p, .frame f)] }
      ∧ f.take s.cfg.H = s.cfg.HDR
      ∧ exec (.unpack q f) s = .next { s with results := s.results ++ [(q, .unpacked (.ok l))] }

/-- What UNPACK discards is exactly what PACK can never produce (D8): a frame that unpacks, behind the core's own header,
is the frame PACK builds from the samples. -/
def Obligations.PackOfUnpackRoundTrips : Prop :=
  ∀ (cfg : Config) (b : List Byte) (l : List Sample), legal cfg = true → unpackFrame cfg b = .ok l →
    b.take cfg.H = cfg.HDR → 1 ≤ l.length ∧ l.length ≤ cfg.M ∧ buildFrame cfg l = b

/-! ### Transport framing (42_transport.md) -/

/-- R140: RXF completes on every byte string, in either phase: a well-formed frame's samples are pushed as PUSH pushes them,
a malformed frame changes nothing but is named (R198); nothing else changes. -/
def Obligations.InboundFrameIsPushedOrDiscarded : Prop :=
  ∀ (s : State) (b : List Byte), StorageInv s →
    (∀ l, unpackFrame s.cfg b = .ok l →
      ∃ rb : Ring, exec (.rxf b) s = .next
          { s with
            rb := rb
            diag := diagAfterPush s l
            absorbed := s.absorbed ++ (if s.cfg.C < s.rb.cnt + l.length then [.rbDrop] else [])
            results := s.results ++ [(.prod, .nothing)] }
        ∧ rb.seq s.cfg.C = lastSamples s.cfg.C (s.seq ++ l)
        ∧ rb.cnt = min s.cfg.C (s.rb.cnt + l.length))
    ∧ (unpackFrame s.cfg b = .malformed →
      exec (.rxf b) s = .next
        { s with absorbed := s.absorbed ++ [.rxMalformed], results := s.results ++ [(.prod, .nothing)] })

/-- R142: ADD completes; the sample is collected, and when the accumulator reaches `M` one frame of all its samples is sent
and it is empty again; nothing else changes. -/
def Obligations.AddCollectsAndSendsFullFrames : Prop :=
  ∀ (s : State) (x : Sample), StorageInv s →
    (s.acc.len + 1 < s.cfg.M →
      ∃ acc : Accumulator, exec (.add x) s =
          .next { s with acc := acc, results := s.results ++ [(.cons, .nothing)] }
        ∧ acc.len = s.acc.len + 1 ∧ acc.collected = s.acc.collected ++ [x])
    ∧ (s.acc.len + 1 = s.cfg.M →
      ∃ acc : Accumulator, exec (.add x) s = .next
          { s with
            acc := acc
            out := s.out ++ [.txf (buildFrame s.cfg (s.acc.collected ++ [x]))]
            sends := s.sends.drop 1
            absorbed := s.absorbed ++ sendConditions 1 s
            results := s.results ++ [(.cons, .nothing)] }
        ∧ acc.len = 0)

/-- R143: FLUSH completes; a non-empty accumulator is sent as one frame of exactly its samples and is empty afterwards; an
empty one sends nothing and changes nothing. -/
def Obligations.FlushSendsThePartialFrame : Prop :=
  ∀ s : State, StorageInv s →
    (0 < s.acc.len →
      exec .flush s = .next
        { s with
          acc := { data := s.acc.data, len := 0 }
          out := s.out ++ [.txf (buildFrame s.cfg s.acc.collected)]
          sends := s.sends.drop 1
          absorbed := s.absorbed ++ sendConditions 1 s
          results := s.results ++ [(.cons, .nothing)] }
      ∧ s.acc.collected.length = s.acc.len)
    ∧ (s.acc.len = 0 → exec .flush s = .next { s with results := s.results ++ [(.cons, .nothing)] })

/-- R144: from an empty accumulator, ADDs of `T` samples send exactly `floor(T / M)` frames, frame `j` packing samples
`j*M` to `j*M + M - 1`, and keep the last `T mod M`. -/
def Obligations.AddsSendOneFramePerChunk : Prop :=
  ∀ (s : State) (l : List Sample), StorageInv s → s.acc.len = 0 →
    ∃ t, execAll (l.map .add) s = .next t
      ∧ t.out = s.out ++ (List.range (l.length / s.cfg.M)).map
          (fun j => .txf (buildFrame s.cfg ((l.drop (j * s.cfg.M)).take s.cfg.M)))
      ∧ t.acc.len = l.length % s.cfg.M
      ∧ t.acc.collected = l.drop (l.length - l.length % s.cfg.M)

/-- R145: from an empty accumulator, `0 < T < M` ADDs and a FLUSH send exactly one frame, of exactly those samples; a FLUSH
of an empty accumulator sends nothing. -/
def Obligations.FlushSendsExactlyTheTail : Prop :=
  ∀ (s : State) (l : List Sample), StorageInv s → s.acc.len = 0 →
    (0 < l.length → l.length < s.cfg.M →
      ∃ t u, execAll (l.map .add) s = .next t ∧ t.out = s.out ∧ exec .flush t = .next u
        ∧ u.out = s.out ++ [.txf (buildFrame s.cfg l)] ∧ u.acc.len = 0)
    ∧ ∃ u, exec .flush s = .next u ∧ u.out = s.out

/-- R141 as noninterference: whatever the radio answers, and whatever has been absorbed, a step does the same to everything
else. No send is retried and no state depends on the answers. -/
def Obligations.SendAnswersReachNoState : Prop :=
  ∀ (s t : State) (answers : List SendAnswer) (conditions : List Condition), step s = .next t →
    ∃ answers' conditions', step { s with sends := answers, absorbed := conditions }
      = .next { t with sends := answers', absorbed := conditions' }

/-- What PUSH and RXF do depends on nothing private to CONS (the accumulator, the phase and its entry time, the underflow
counter) nor on the trace, and leaves all of it as it is: a frame that arrives in TRANSMIT is buffered exactly as in RECEIVE
(R34, R36, R140). -/
def Obligations.ProducerReadsNothingOfTheConsumer : Prop :=
  ∀ (i : Instr) (s t : State) (acc : Accumulator) (rc : Coordinator) (underflows : Word32) (out : List Event),
    i.op = .push ∨ i.op = .rxf → exec i s = .next t →
      exec i { s with acc := acc, rc := rc, out := out, diag := { s.diag with underflow_events := underflows } }
        = .next { t with acc := acc, rc := rc, out := out, diag := { t.diag with underflow_events := underflows } }

/-- R56: PROD's PUSH and RXF commute with every transaction CONS may issue that performs no POP, a STEP that enters either
phase and a refused one among them: both orders of R204 leave the same core and the same trace. -/
def Obligations.ProducerCommutesWithConsumerThatDoesNotPop : Prop :=
  ∀ (i j : Instr) (s t u t' u' : State),
    i.op = .push ∨ i.op = .rxf → j.op.allowedOn .cons = true → ¬ PerformsPop s j →
    exec i s = .next t → exec j t = .next u → exec j s = .next t' → exec i t' = .next u' → SameCore u u'

/-- R58: issuing PACK, UNPACK or FLUSH twice in a row leaves the core and the trace as issuing it once; for each of the
other transactions there is a state where it does not. -/
def Obligations.IdempotentTransactions : Prop :=
  (∀ (i : Instr) (s t u : State), i.op = .pack ∨ i.op = .unpack ∨ i.op = .flush →
    exec i s = .next t → exec i t = .next u → SameCore t u)
  ∧ ∀ op : Op, op = .push ∨ op = .pop ∨ op = .rxf ∨ op = .add ∨ op = .step →
      ∃ (i : Instr) (s t u : State), i.op = op ∧ StorageInv s ∧ exec i s = .next t ∧ exec i t = .next u
        ∧ ¬ SameCore t u

/-! ### RelayCoordinator (43_coordinator.md) -/

/-- R161: `elapsed` is wrap-around subtraction, so `d` milliseconds after the phase was entered the floor has elapsed
exactly when `d mod 2^32` is at least `T_DWELL`: exact below `2^32` ms, and wrapping beyond (R227). -/
def Obligations.DwellFloorIsWrapAround : Prop :=
  ∀ (s : State) (now : Word32) (d : Nat),
    (s.rc.elapsed now).toNat = (now.toNat + 2 ^ 32 - s.rc.t_entry.toNat) % 2 ^ 32
    ∧ (s.floorElapsed (s.rc.t_entry + BitVec.ofNat 32 d) = true ↔ s.cfg.T_DWELL ≤ d % 2 ^ 32)

/-- R163: STEP in RECEIVE, the floor elapsed and push-to-talk asserted, enters TRANSMIT: three events in the listed order,
the phase and its entry time, and nothing else, ACC and RB untouched. -/
def Obligations.StepEntersTransmit : Prop :=
  ∀ (s : State) (now : Word32), s.rc.phase = .receive → s.cfg.T_DWELL ≤ (now - s.rc.t_entry).toNat →
    exec (.step now true []) s = .next
      { s with
        rc := { phase := .transmit, t_entry := now }
        out := s.out ++ [.snkStop, .capStart, .ind true]
        results := s.results ++ [(.cons, .nothing)] }

/-- R164: STEP in RECEIVE that makes no transition pops `K_POP` samples, silence filling a shortfall, and writes them to the
sink; nothing else changes. -/
def Obligations.StepPlaysInReceive : Prop :=
  ∀ (s : State) (now : Word32) (ptt : Bool), StorageInv s → s.rc.phase = .receive →
    ¬ (s.cfg.T_DWELL ≤ (now - s.rc.t_entry).toNat ∧ ptt = true) →
    ∃ rb : Ring, exec (.step now ptt []) s = .next
        { s with
          rb := rb
          diag := diagAfterPop s s.cfg.K_POP
          absorbed := s.absorbed ++ (if s.rb.cnt < s.cfg.K_POP then [.rbUnderflow] else [])
          out := s.out ++ [.snkWr (s.seq.take (min s.seq.length s.cfg.K_POP)
            ++ List.replicate (s.cfg.K_POP - min s.seq.length s.cfg.K_POP) 0#16)]
          results := s.results ++ [(.cons, .nothing)] }
      ∧ rb.seq s.cfg.C = s.seq.drop (min s.seq.length s.cfg.K_POP)
      ∧ rb.wr = s.rb.wr ∧ rb.buf = s.rb.buf

/-- R165: STEP in TRANSMIT, the floor elapsed and push-to-talk released, sends the partial frame if there is one, then stops
capture, restarts the sink and turns the indicator off, and enters RECEIVE with an empty accumulator; nothing else
changes. -/
def Obligations.StepEntersReceive : Prop :=
  ∀ (s : State) (now : Word32), StorageInv s → s.rc.phase = .transmit →
    s.cfg.T_DWELL ≤ (now - s.rc.t_entry).toNat →
    exec (.step now false []) s = .next
      { s with
        acc := { data := s.acc.data, len := 0 }
        rc := { phase := .receive, t_entry := now }
        out := s.out ++ (if 0 < s.acc.len then [.txf (buildFrame s.cfg s.acc.collected)] else [])
          ++ [.capStop, .snkStart s.cfg.RATE, .ind false]
        sends := if 0 < s.acc.len then s.sends.drop 1 else s.sends
        absorbed := s.absorbed ++ (if 0 < s.acc.len then sendConditions 1 s else [])
        results := s.results ++ [(.cons, .nothing)] }

/-- R166: STEP in TRANSMIT that makes no transition records the capture read and adds the captured samples in order: one
frame for each full chunk of what was collected and what was captured, the rest stays collected; each frame takes one answer
of the radio (log 8); the phase, the ring and the counters are untouched. -/
def Obligations.StepSendsCapturedSamples : Prop :=
  ∀ (s : State) (now : Word32) (ptt : Bool) (c : List Sample), StorageInv s → s.rc.phase = .transmit →
    ¬ (s.cfg.T_DWELL ≤ (now - s.rc.t_entry).toNat ∧ ptt = false) → c.length ≤ s.cfg.K_CAP →
    let all := s.acc.collected ++ c
    let frames := all.length / s.cfg.M
    ∃ acc : Accumulator, exec (.step now ptt c) s = .next
        { s with
          acc := acc
          out := s.out ++ [.capRd c.length] ++ (List.range frames).map
            (fun j => .txf (buildFrame s.cfg ((all.drop (j * s.cfg.M)).take s.cfg.M)))
          sends := s.sends.drop frames
          absorbed := s.absorbed ++ sendConditions frames s
          results := s.results ++ [(.cons, .nothing)] }
      ∧ acc.len = all.length % s.cfg.M
      ∧ acc.collected = all.drop (all.length - all.length % s.cfg.M)

/-- R160's refusals: more samples than a capture read asks for, or captured samples on a branch that reads none, are refused
before any state change. -/
def Obligations.StepRefusesUnexpectedCapture : Prop :=
  ∀ (s : State) (now : Word32) (ptt : Bool) (c : List Sample),
    (s.cfg.K_CAP < c.length →
      exec (.step now ptt c) s =
        .next { s with refused := true, refusals := s.refusals ++ [(.cons, .operandRange)] })
    ∧ (c.length ≤ s.cfg.K_CAP → c ≠ [] →
        (s.rc.phase = .receive
          ∨ (s.rc.phase = .transmit ∧ s.cfg.T_DWELL ≤ (now - s.rc.t_entry).toNat ∧ ptt = false)) →
      exec (.step now ptt c) s =
        .next { s with refused := true, refusals := s.refusals ++ [(.cons, .captureUnexpected)] })

/-- The phase and entry-time columns of R167, for every STEP that is not refused: a transition exactly when the floor has
elapsed and push-to-talk asks for the other phase. -/
def Obligations.PhaseChangesExactlyWhenDue : Prop :=
  ∀ (s : State) (now : Word32) (ptt : Bool) (c : List Sample),
    let due := s.cfg.T_DWELL ≤ (now - s.rc.t_entry).toNat
    (c = [] ∨ (s.rc.phase = .transmit ∧ c.length ≤ s.cfg.K_CAP ∧ ¬ (due ∧ ptt = false))) →
    ∃ t, exec (.step now ptt c) s = .next t ∧
      t.rc =
        match s.rc.phase, ptt with
        | .receive, true => if due then { phase := .transmit, t_entry := now } else s.rc
        | .receive, false => s.rc
        | .transmit, true => s.rc
        | .transmit, false => if due then { phase := .receive, t_entry := now } else s.rc

/-- R168, over any run of both agents: no STEP before the floor leaves the phase, whatever its push-to-talk, nor does a
later one that does not ask for the other phase; the first STEP at or after the floor that asks for it enters it. -/
def Obligations.DwellFloorHolds : Prop :=
  ∀ (run : List Instr) (s : State),
    (∀ now ptt c, Instr.step now ptt c ∈ run →
      (now - s.rc.t_entry).toNat < s.cfg.T_DWELL ∨ ptt = (s.rc.phase == .transmit)) →
    ∃ t, execAll run s = .next t ∧ t.rc = s.rc
      ∧ ∀ now, s.cfg.T_DWELL ≤ (now - s.rc.t_entry).toNat →
        (s.rc.phase = .transmit →
          ∃ u, exec (.step now false []) t = .next u ∧ u.rc = { phase := .receive, t_entry := now })
        ∧ (s.rc.phase = .receive →
          ∃ u, exec (.step now true []) t = .next u ∧ u.rc = { phase := .transmit, t_entry := now })

/-- R169: where CONS issues no direct ADD and no direct FLUSH, the accumulator is empty whenever the phase is RECEIVE, from
construction on and whatever PROD does; and a TRANSMIT phase entered from such a state starts with it empty. -/
def Obligations.AccumulatorIsEmptyInReceive : Prop :=
  (∀ (cfg : Config) (now0 : Word32) (buf data : List Sample) (t : State),
    initWith cfg now0 buf data = .next t → t.acc.len = 0)
  ∧ ∀ (run : List Instr) (s : State), (s.rc.phase = .receive → s.acc.len = 0) →
      (∀ i ∈ run, i.op ≠ .add ∧ i.op ≠ .flush) →
      ∃ t, execAll run s = .next t ∧ (t.rc.phase = .receive → t.acc.len = 0)
        ∧ ∀ now, t.rc.phase = .receive → t.cfg.T_DWELL ≤ (now - t.rc.t_entry).toNat →
          ∃ u, exec (.step now true []) t = .next u ∧ u.rc.phase = .transmit ∧ u.acc.len = 0

/-- One utterance, whole (R61, R144, R145, R165, R166, R169): from a TRANSMIT phase whose accumulator is empty, iterations
that stay in TRANSMIT and then the one that leaves it send, in order, exactly the frames of the captured samples: full ones
and, if samples are left, one of the rest. No sample is lost and none is sent twice. -/
def Obligations.UtteranceIsSentWhole : Prop :=
  ∀ (s : State) (body : List (Word32 × Bool × List Sample)) (now : Word32), StorageInv s → s.rc.phase = .transmit →
    s.acc.len = 0 →
    (∀ x ∈ body, x.2.2.length ≤ s.cfg.K_CAP ∧ ¬ (s.cfg.T_DWELL ≤ (x.1 - s.rc.t_entry).toNat ∧ x.2.1 = false)) →
    s.cfg.T_DWELL ≤ (now - s.rc.t_entry).toNat →
    let captured := (body.map (·.2.2)).flatten
    ∃ t, execAll (body.map (fun x => .step x.1 x.2.1 x.2.2) ++ [.step now false []]) s = .next t
      ∧ t.rc = { phase := .receive, t_entry := now } ∧ t.acc.len = 0
      ∧ framesSent t.out = framesSent s.out ++ (List.range ((captured.length + s.cfg.M - 1) / s.cfg.M)).map
          (fun j => buildFrame s.cfg ((captured.drop (j * s.cfg.M)).take s.cfg.M))

/-- The source's testable property 8, for a frame of any legal length and whatever is buffered already (R228): a frame that
arrives in TRANSMIT is heard. After the switch to RECEIVE, iterations that stay there write to the sink, `K_POP` samples
each, the last `C` of what was buffered and what arrived, and then silence. -/
def Obligations.FrameReceivedInTransmitIsPlayed : Prop :=
  ∀ (s : State) (l : List Sample) (now : Word32) (later : List (Word32 × Bool)), StorageInv s →
    s.rc.phase = .transmit → 1 ≤ l.length → l.length ≤ s.cfg.M → s.cfg.T_DWELL ≤ (now - s.rc.t_entry).toNat →
    (∀ x ∈ later, ¬ (s.cfg.T_DWELL ≤ (x.1 - now).toNat ∧ x.2 = true)) →
    let heard := lastSamples s.cfg.C (s.seq ++ l) ++ List.replicate (later.length * s.cfg.K_POP) 0#16
    ∃ t, execAll ([.rxf (buildFrame s.cfg l), .step now false []] ++ later.map fun x => .step x.1 x.2 []) s = .next t
      ∧ t.rc = { phase := .receive, t_entry := now }
      ∧ t.out = s.out ++ flushFrames s ++ [.capStop, .snkStart s.cfg.RATE, .ind false]
          ++ (List.range later.length).map fun j => .snkWr ((heard.drop (j * s.cfg.K_POP)).take s.cfg.K_POP)
end

