-- ==== Sys2Proof/Laws/Construct.lean ====
section
/-! SUPPORT. Laws/Construct.lean: the construction check and what construction answers (R7, R220). -/

namespace Sys2Proof.Machine

/-- The check of R7, condition by condition. -/
theorem legal_iff (cfg : Config) :
    legal cfg = true ↔
      1 ≤ cfg.C ∧ (1 ≤ cfg.M ∧ cfg.M ≤ 65535) ∧ cfg.HDR.length = cfg.H ∧ cfg.H + 2 * cfg.M ≤ cfg.P_MAX
        ∧ cfg.T_DWELL ≤ 2147483647 ∧ 1 ≤ cfg.K_POP ∧ (1 ≤ cfg.K_CAP ∧ cfg.K_CAP ≤ 65535) ∧ 1 ≤ cfg.RATE := by
  simp [legal, Config.W_T, and_assoc]
  intros
  exact decide_eq_true_iff

theorem initWith_legal {cfg : Config} (h : legal cfg = true) (now0 : Word32) (buf data : List Sample) :
    initWith cfg now0 buf data = .next (State.constructed cfg now0 buf data) := by
  simp [initWith, h]

/-- A construction that answers a state answers the one of R220, from a legal configuration. -/
theorem initWith_next {cfg : Config} {now0 : Word32} {buf data : List Sample} {t : State}
    (h : initWith cfg now0 buf data = .next t) : legal cfg = true ∧ t = State.constructed cfg now0 buf data := by
  unfold initWith at h
  split_ifs at h with hl
  cases h
  exact ⟨hl, rfl⟩

end Sys2Proof.Machine
end

