-- ==== Sys2Proof/Laws/Operands.lean ====
section
/-! SUPPORT. Laws/Operands.lean: byte order and fields, one lemma each (R71, R73, R76, R78, R82). -/

namespace Sys2Proof.Machine

/-- The value of a sample from its two bytes, low byte first (R76). -/
theorem sampleOfBytes_toNat (lo hi : Byte) : (sampleOfBytes lo hi).toNat = lo.toNat + 256 * hi.toNat := by
  have := lo.isLt
  rw [sampleOfBytes, BitVec.toNat_append, ← Nat.shiftLeft_add_eq_or_of_lt this, Nat.shiftLeft_eq]
  omega

@[simp] theorem sampleOfBytes_bytesOfSample (s : Sample) :
    sampleOfBytes (s.extractLsb' 0 8) (s.extractLsb' 8 8) = s := by
  apply BitVec.eq_of_toNat_eq
  have := s.isLt
  simp [sampleOfBytes_toNat, Nat.shiftRight_eq_div_pow]
  omega

theorem bytesOfSample_sampleOfBytes (lo hi : Byte) : bytesOfSample (sampleOfBytes lo hi) = [lo, hi] := by
  have h1 := lo.isLt
  have h2 := hi.isLt
  have h := sampleOfBytes_toNat lo hi
  have hl : (sampleOfBytes lo hi).extractLsb' 0 8 = lo := by
    apply BitVec.eq_of_toNat_eq; simp [h]; omega
  have hh : (sampleOfBytes lo hi).extractLsb' 8 8 = hi := by
    apply BitVec.eq_of_toNat_eq; simp [h, Nat.shiftRight_eq_div_pow]; omega
  rw [bytesOfSample, hl, hh]

@[simp] theorem bytesOfSamples_length (l : List Sample) : (bytesOfSamples l).length = 2 * l.length := by
  induction l with
  | nil => rfl
  | cons s rest ih => simp [bytesOfSamples, bytesOfSample, ih]; omega

@[simp] theorem samplesOfBytes_bytesOfSamples (l : List Sample) : samplesOfBytes (bytesOfSamples l) = l := by
  induction l with
  | nil => rfl
  | cons s rest ih => simp [bytesOfSamples, bytesOfSample, samplesOfBytes, ih]

theorem samplesOfBytes_length : ∀ b : List Byte, (samplesOfBytes b).length = b.length / 2
  | [] => rfl
  | [_] => by simp [samplesOfBytes]
  | lo :: hi :: rest => by simp [samplesOfBytes, samplesOfBytes_length rest]; omega

/-- An even run of bytes is the run of its samples. -/
theorem bytesOfSamples_samplesOfBytes : ∀ b : List Byte, b.length % 2 = 0 → bytesOfSamples (samplesOfBytes b) = b
  | [], _ => rfl
  | [_], h => by simp at h
  | lo :: hi :: rest, h => by
    have : rest.length % 2 = 0 := by simp at h; omega
    simp [samplesOfBytes, bytesOfSamples, bytesOfSample_sampleOfBytes, bytesOfSamples_samplesOfBytes rest this]

/-- Sample `i` of a run of bytes comes from bytes `2i` and `2i+1` alone (R123). -/
theorem samplesOfBytes_getElem? : ∀ (b : List Byte) (i : Nat), 2 * i + 1 < b.length →
    (samplesOfBytes b)[i]? = some (sampleOfBytes (b.getD (2 * i) 0#8) (b.getD (2 * i + 1) 0#8))
  | [], _, h => by simp at h
  | [_], _, h => by simp at h
  | lo :: hi :: rest, 0, _ => by simp [samplesOfBytes]
  | lo :: hi :: rest, i + 1, h => by
    have := samplesOfBytes_getElem? rest i (by simp at h; omega)
    simpa [samplesOfBytes, Nat.mul_add] using this

/-- Bytes `2i` and `2i+1` of a run of samples come from sample `i` alone (R123). -/
theorem bytesOfSamples_getD (l : List Sample) : ∀ (i : Nat), i < l.length →
    (bytesOfSamples l).getD (2 * i) 0#8 = (l.getD i 0#16).extractLsb' 0 8
    ∧ (bytesOfSamples l).getD (2 * i + 1) 0#8 = (l.getD i 0#16).extractLsb' 8 8 := by
  induction l with
  | nil => intro i h; simp at h
  | cons s rest ih =>
    intro i h
    cases i with
    | zero => simp [bytesOfSamples, bytesOfSample]
    | succ i =>
      have := ih i (by simp at h; omega)
      simpa [bytesOfSamples, bytesOfSample, Nat.mul_add] using this

/-- A word from its four bytes, as a number (R73). -/
theorem word32OfBytes_toNat (b0 b1 b2 b3 : Byte) :
    (word32OfBytes b0 b1 b2 b3).toNat = b0.toNat + 256 * b1.toNat + 65536 * b2.toNat + 16777216 * b3.toNat := by
  have h0 := b0.isLt
  have h1 := b1.isLt
  have h2 := b2.isLt
  simp only [word32OfBytes, BitVec.toNat_append]
  rw [← Nat.shiftLeft_add_eq_or_of_lt h2, ← Nat.shiftLeft_add_eq_or_of_lt h1, ← Nat.shiftLeft_add_eq_or_of_lt h0]
  simp only [Nat.shiftLeft_eq]
  omega

@[simp] theorem bytesOfWord32_length (w : Word32) : (bytesOfWord32 w).length = 4 := rfl

@[simp] theorem word32OfBytes_bytesOfWord32 (w : Word32) :
    word32OfBytes (w.extractLsb' 0 8) (w.extractLsb' 8 8) (w.extractLsb' 16 8) (w.extractLsb' 24 8) = w := by
  have := w.isLt
  apply BitVec.eq_of_toNat_eq
  simp [word32OfBytes_toNat, Nat.shiftRight_eq_div_pow]
  omega

theorem bytesOfWord32_word32OfBytes (b0 b1 b2 b3 : Byte) :
    bytesOfWord32 (word32OfBytes b0 b1 b2 b3) = [b0, b1, b2, b3] := by
  have h0 := b0.isLt
  have h1 := b1.isLt
  have h2 := b2.isLt
  have h3 := b3.isLt
  have h := word32OfBytes_toNat b0 b1 b2 b3
  have e0 : (word32OfBytes b0 b1 b2 b3).extractLsb' 0 8 = b0 := by
    apply BitVec.eq_of_toNat_eq; simp [h]; omega
  have e1 : (word32OfBytes b0 b1 b2 b3).extractLsb' 8 8 = b1 := by
    apply BitVec.eq_of_toNat_eq; simp [h, Nat.shiftRight_eq_div_pow]; omega
  have e2 : (word32OfBytes b0 b1 b2 b3).extractLsb' 16 8 = b2 := by
    apply BitVec.eq_of_toNat_eq; simp [h, Nat.shiftRight_eq_div_pow]; omega
  have e3 : (word32OfBytes b0 b1 b2 b3).extractLsb' 24 8 = b3 := by
    apply BitVec.eq_of_toNat_eq; simp [h, Nat.shiftRight_eq_div_pow]; omega
  rw [bytesOfWord32, e0, e1, e2, e3]

end Sys2Proof.Machine
end

