-- ==== Sys2Proof/Laws/Decode.lean ====
section
/-! SUPPORT. Laws/Decode.lean: the fields of an encoded command word, and of any command word as a number (R71, R74, R75). -/

namespace Sys2Proof

open Sys2Proof.Machine

@[simp] theorem opOfCode_code (op : Op) : opOfCode op.code = some op := by cases op <;> rfl

/-- A listed code is the code of its operation (R74). -/
theorem code_of_opOfCode {code : BitVec 4} {op : Op} (h : opOfCode code = some op) : op.code = code := by
  unfold opOfCode at h
  apply BitVec.eq_of_toNat_eq
  split at h <;> simp_all <;> subst h <;> simp [Op.code]

theorem opOfCode_eq_none_iff (code : BitVec 4) : opOfCode code = none ↔ code.toNat = 0 ∨ 9 ≤ code.toNat := by
  revert code; decide

/-- A command word as a number: `OP * 2^28 + P * 2^27 + N`, its `Z` zero (R71). -/
theorem commandWord_toNat (op : Op) (p : Bool) (n : BitVec 16) :
    (commandWord op p n).toNat = op.code.toNat * 2 ^ 28 + p.toNat * 2 ^ 27 + n.toNat := by
  have hn := n.isLt
  have hp := Bool.toNat_lt p
  have hz : (0#11 : BitVec 11).toNat < 2 ^ 11 := by decide
  have hpl : (BitVec.ofBool p).toNat < 2 ^ 1 := (BitVec.ofBool p).isLt
  simp only [commandWord, BitVec.toNat_append]
  rw [← Nat.shiftLeft_add_eq_or_of_lt hpl, ← Nat.shiftLeft_add_eq_or_of_lt hz, ← Nat.shiftLeft_add_eq_or_of_lt hn]
  simp only [Nat.shiftLeft_eq, BitVec.toNat_ofBool]
  simp
  omega

theorem cwOP_toNat (cw : Word32) : (cwOP cw).toNat = cw.toNat / 2 ^ 28 := by
  have := cw.isLt
  simp [cwOP, Nat.shiftRight_eq_div_pow]; omega

theorem cwZ_toNat (cw : Word32) : (cwZ cw).toNat = cw.toNat / 2 ^ 16 % 2 ^ 11 := by
  simp [cwZ, Nat.shiftRight_eq_div_pow]

theorem cwN_toNat (cw : Word32) : (cwN cw).toNat = cw.toNat % 2 ^ 16 := by
  simp [cwN]

theorem cwP_eq (cw : Word32) : cwP cw = decide (cw.toNat / 2 ^ 27 % 2 = 1) := by
  simp [cwP, BitVec.getLsbD, Nat.testBit_eq_decide_div_mod_eq]

/-- A command word is determined by its fields (R71). -/
theorem commandWord_of_fields {cw : Word32} {op : Op} (hop : opOfCode (cwOP cw) = some op) (hz : cwZ cw = 0#11) :
    commandWord op (cwP cw) (cwN cw) = cw := by
  have h1 := cwOP_toNat cw
  have h2 := cwZ_toNat cw
  have h3 := cwN_toNat cw
  have h4 := cwP_eq cw
  rw [← code_of_opOfCode hop] at h1
  rw [hz] at h2
  have hlt := cw.isLt
  apply BitVec.eq_of_toNat_eq
  rw [commandWord_toNat, h1, h3, h4]
  simp only [BitVec.toNat_ofNat] at h2
  by_cases hp : cw.toNat / 2 ^ 27 % 2 = 1 <;> simp only [hp, decide_true, decide_false, Bool.toNat_true, Bool.toNat_false] <;> omega

@[simp] theorem cwOP_commandWord (op : Op) (p : Bool) (n : BitVec 16) : cwOP (commandWord op p n) = op.code := by
  apply BitVec.eq_of_toNat_eq
  have hn := n.isLt
  have hp := Bool.toNat_lt p
  rw [cwOP_toNat, commandWord_toNat]; omega

@[simp] theorem cwZ_commandWord (op : Op) (p : Bool) (n : BitVec 16) : cwZ (commandWord op p n) = 0#11 := by
  apply BitVec.eq_of_toNat_eq
  have hn := n.isLt
  have hp := Bool.toNat_lt p
  rw [cwZ_toNat, commandWord_toNat]
  simp
  omega

@[simp] theorem cwN_commandWord (op : Op) (p : Bool) (n : BitVec 16) : cwN (commandWord op p n) = n := by
  apply BitVec.eq_of_toNat_eq
  have hn := n.isLt
  rw [cwN_toNat, commandWord_toNat]; omega

@[simp] theorem cwP_commandWord (op : Op) (p : Bool) (n : BitVec 16) : cwP (commandWord op p n) = p := by
  have hn := n.isLt
  rw [cwP_eq, commandWord_toNat]
  cases p <;> simp <;> omega

/-- The operand area of a well-formed transaction has the length R72 gives it. -/
theorem operandArea_length {i : Instr} (h : i.wellFormed = true) :
    i.operandArea.length = areaLength i.op.format i.fieldN.toNat := by
  cases i <;> simp_all [Instr.wellFormed, fitsN, Instr.operandArea, Instr.op, Op.format, areaLength, Instr.fieldN] <;> omega

/-- The decoder on a byte string that starts with an encoded command word. -/
theorem decode_commandWord (port : Port) (cw : Word32) (area : List Byte) :
    decode port (bytesOfWord32 cw ++ area) =
      match decodeCommandWord port cw with
      | .error reason => .refused reason
      | .ok op =>
        if area.length < areaLength op.format (cwN cw).toNat then .refused .truncated
        else .ok (assemble port op (cwP cw) (cwN cw) (area.take (areaLength op.format (cwN cw).toNat)))
          (area.drop (areaLength op.format (cwN cw).toNat)) := by
  simp [bytesOfWord32, decode] <;> rfl

/-- The checks of R75 let the command word of a transaction pass on a port the operation is allowed on. -/
theorem decodeCommandWord_encoded (i : Instr) (port : Port) :
    decodeCommandWord port (commandWord i.op i.fieldP i.fieldN) =
      if i.op.allowedOn port = false then .error .wrongPort else .ok i.op := by
  cases i <;> simp [decodeCommandWord, Instr.op, Instr.fieldP, Instr.fieldN] <;> rfl

/-- What passes the checks of R75. -/
theorem decodeCommandWord_ok {port : Port} {cw : Word32} {op : Op} (h : decodeCommandWord port cw = .ok op) :
    opOfCode (cwOP cw) = some op ∧ cwZ cw = 0#11 ∧ (cwP cw = true → op = .step) ∧ (op = .flush → cwN cw = 0#16)
      ∧ op.allowedOn port = true := by
  unfold decodeCommandWord at h
  split at h
  · cases h
  · split_ifs at h with h1 h2 h3 h4
    cases h
    refine ⟨‹_›, not_not.mp h1, ?_, ?_, by simpa using h4⟩
    · intro hp; by_contra hne; exact h2 ⟨hp, hne⟩
    · intro hf; by_contra hne; exact h3 ⟨hf, hne⟩

/-- A byte string of at least four bytes starts with the word of those bytes. -/
theorem bytes_eq_word32_append (b0 b1 b2 b3 : Byte) (area : List Byte) :
    b0 :: b1 :: b2 :: b3 :: area = bytesOfWord32 (word32OfBytes b0 b1 b2 b3) ++ area := by
  rw [bytesOfWord32_word32OfBytes]; rfl

/-- Assembling a transaction's own fields and operand area gives it back (R76 to R78). -/
theorem assemble_encoded {i : Instr} (h : i.wellFormed = true) :
    assemble i.port i.op i.fieldP i.fieldN i.operandArea = i := by
  cases i <;> simp_all [assemble, Instr.op, Instr.port, Instr.fieldP, Instr.fieldN, Instr.operandArea,
    Instr.wellFormed, fitsN, bytesOfWord32, nowOfBytes]
  all_goals omega

/-- What is assembled from checked fields and an area of the right length has those fields, that area, and is
well-formed. -/
theorem assemble_fields {port : Port} {op : Op} {p : Bool} {n : BitVec 16} {area : List Byte}
    (hl : area.length = areaLength op.format n.toNat) (hp : p = true → op = .step) (hf : op = .flush → n = 0#16)
    (ha : op.allowedOn port = true) :
    let i := assemble port op p n area
    i.wellFormed = true ∧ i.port = port ∧ i.op = op ∧ i.fieldP = p ∧ i.fieldN = n ∧ i.operandArea = area := by
  have hn := n.isLt
  cases op with
  | step =>
    simp only [Op.format, areaLength] at hl
    have h4 : ∃ b0 b1 b2 b3 r, area = b0 :: b1 :: b2 :: b3 :: r := by
      match area, hl with
      | b0 :: b1 :: b2 :: b3 :: r, _ => exact ⟨_, _, _, _, _, rfl⟩
      | [], h => simp at h; omega
      | [_], h => simp at h; omega
      | [_, _], h => simp at h; omega
      | [_, _, _], h => simp at h; omega
    obtain ⟨b0, b1, b2, b3, r, rfl⟩ := h4
    have hr : r.length = 2 * n.toNat := by simp at hl; omega
    have hs : (samplesOfBytes r).length = n.toNat := by rw [samplesOfBytes_length]; omega
    have he := bytesOfSamples_samplesOfBytes r (by omega)
    cases port <;> simp [Op.allowedOn] at ha
    simp [assemble, Instr.wellFormed, fitsN, Instr.port, Instr.op, Instr.fieldP, Instr.fieldN, Instr.operandArea,
      nowOfBytes, bytesOfWord32_word32OfBytes, hs, he]
    omega
  | _ =>
    simp_all [assemble, Instr.op, Instr.port, Instr.fieldP, Instr.fieldN, Instr.operandArea, Instr.wellFormed, fitsN,
      Op.format, areaLength, samplesOfBytes_length, Op.allowedOn, bytesOfSamples_samplesOfBytes, BitVec.ofNat_toNat]
    try omega

end Sys2Proof
end

