-- ==== Sys2Proof/Laws/Ring.lean ====
section
/-! SUPPORT. Laws/Ring.lean: what the ring's operations do to `seq(RB)` and to its invariant (R26, R27). -/

namespace Sys2Proof.Machine

/-- The ring's part of StorageInv. -/
structure RingOk (C : Nat) (r : Ring) : Prop where
  bufSize : r.buf.length = C
  rdRange : r.rd < C
  wrRange : r.wr < C
  cntRange : r.cnt ≤ C
  cursors : r.wr = (r.rd + r.cnt) % C

theorem StorageInv.ring {s : State} (h : StorageInv s) : RingOk s.cfg.C s.rb :=
  ⟨h.bufSize, h.rdRange, h.wrRange, h.cntRange, h.cursors⟩

@[simp] theorem Ring.oldest_length (C : Nat) (r : Ring) (k : Nat) : (r.oldest C k).length = k := by
  simp [Ring.oldest]

@[simp] theorem Ring.seq_length (C : Nat) (r : Ring) : (r.seq C).length = r.cnt := by simp [Ring.seq]

@[simp] theorem Ring.oldest_zero (C : Nat) (r : Ring) : r.oldest C 0 = [] := rfl

/-- The `k` oldest samples are a prefix of the content. -/
theorem Ring.oldest_eq_take (C : Nat) (r : Ring) {k : Nat} (h : k ≤ r.cnt) : r.oldest C k = (r.seq C).take k := by
  simp [Ring.seq, Ring.oldest, ← List.map_take, List.take_range, Nat.min_eq_left h]

theorem Ring.isFull_iff (C : Nat) (r : Ring) : r.isFull C = true ↔ r.cnt = C := by simp [Ring.isFull]

/-- Two indices less than `C` apart are different modulo `C`. -/
theorem mod_ne_of_lt {C a i k : Nat} (h : i < k) (hk : k < C) : (a + i) % C ≠ (a + k) % C := by
  intro he
  have h1 := Nat.ModEq.add_left_cancel' a (show a + i ≡ a + k [MOD C] from he)
  rw [Nat.ModEq, Nat.mod_eq_of_lt (by omega), Nat.mod_eq_of_lt hk] at h1
  omega

/-- Writing into a ring that is not full appends one sample. -/
theorem Ring.write_seq {C : Nat} {r : Ring} (h : RingOk C r) (hc : r.cnt < C) (x : Sample) :
    (r.write C x).seq C = r.seq C ++ [x] := by
  have hlast : (r.write C x).at ((r.rd + r.cnt) % C) = x := by
    have : r.wr < r.buf.length := by rw [h.bufSize]; exact h.wrRange
    simp [Ring.at, Ring.write, ← h.cursors, List.getD, this]
  have hrest : ∀ i < r.cnt, (r.write C x).at ((r.rd + i) % C) = r.at ((r.rd + i) % C) := by
    intro i hi
    have hne : r.wr ≠ (r.rd + i) % C := by rw [h.cursors]; exact (mod_ne_of_lt hi hc).symm
    simp [Ring.at, Ring.write, List.getD, List.getElem?_set_ne hne]
  show ((List.range (r.cnt + 1)).map fun i => (r.write C x).at ((r.rd + i) % C)) = _
  rw [List.range_succ, List.map_append]
  congr 1
  · exact List.map_congr_left fun i hi => hrest i (List.mem_range.mp hi)
  · simp [hlast]

theorem Ring.write_ok {C : Nat} {r : Ring} (h : RingOk C r) (hc : r.cnt < C) (x : Sample) :
    RingOk C (r.write C x) where
  bufSize := by simp [Ring.write, h.bufSize]
  rdRange := h.rdRange
  wrRange := Nat.mod_lt _ (by omega)
  cntRange := hc
  cursors := by simp [Ring.write, h.cursors, Nat.add_assoc]

/-- Removing the `k` oldest samples drops a prefix of the content. -/
theorem Ring.remove_seq (C : Nat) (r : Ring) (k : Nat) : (r.remove C k).seq C = (r.seq C).drop k := by
  apply List.ext_getElem
  · simp [Ring.remove]
  · intro i h1 h2
    simp [Ring.seq, Ring.oldest, Ring.remove, Ring.at, Nat.add_assoc]

theorem Ring.remove_ok {C : Nat} {r : Ring} (h : RingOk C r) {k : Nat} (hk : k ≤ r.cnt) : RingOk C (r.remove C k) where
  bufSize := h.bufSize
  rdRange := Nat.mod_lt _ (by have := h.rdRange; omega)
  wrRange := h.wrRange
  cntRange := by have := h.cntRange; simp [Ring.remove]; omega
  cursors := by
    show r.wr = ((r.rd + k) % C + (r.cnt - k)) % C
    rw [Nat.mod_add_mod, h.cursors]
    congr 1; omega

/-- Dropping the oldest sample is removing one. -/
theorem Ring.dropOldest_eq (C : Nat) (r : Ring) : r.dropOldest C = r.remove C 1 := rfl

theorem lastSamples_append_of_le {k : Nat} {l : List Sample} (h : l.length ≤ k) : lastSamples k l = l := by
  simp [lastSamples, Nat.sub_eq_zero_of_le h]

@[simp] theorem lastSamples_length (k : Nat) (l : List Sample) : (lastSamples k l).length = min k l.length := by
  simp [lastSamples]; omega

/-- Taking the last `k` twice, with more appended in between. -/
theorem lastSamples_append (k : Nat) (a b : List Sample) :
    lastSamples k (lastSamples k a ++ b) = lastSamples k (a ++ b) := by
  unfold lastSamples
  by_cases h : a.length ≤ k
  · simp [Nat.sub_eq_zero_of_le h]
  · rw [← List.drop_append_of_le_length (by omega), List.drop_drop]
    congr 1
    simp
    omega

/-- The loop of R100 in one lemma: the content is the last `C` of what was there and what came (R102), the cursors stay
in order, `dropped` counts the excess, and the write cursor advances by the number of samples. -/
theorem Ring.push_spec {C : Nat} (hC : 1 ≤ C) (l : List Sample) :
    ∀ {r : Ring} (d : Nat), RingOk C r →
      RingOk C (Ring.push C l r d).1
      ∧ (Ring.push C l r d).1.seq C = lastSamples C (r.seq C ++ l)
      ∧ (Ring.push C l r d).2 = d + (r.cnt + l.length - C)
      ∧ (Ring.push C l r d).1.wr = (r.wr + l.length) % C := by
  induction l with
  | nil =>
    intro r d h
    have := h.cntRange
    refine ⟨h, ?_, ?_, ?_⟩
    · simp [Ring.push, lastSamples_append_of_le, this]
    · simp [Ring.push]; omega
    · simp [Ring.push, Nat.mod_eq_of_lt h.wrRange]
  | cons x rest ih =>
    intro r d h
    have hle := h.cntRange
    unfold Ring.push
    by_cases hf : r.isFull C = true
    · have hcnt := (Ring.isFull_iff C r).mp hf
      have hk : (1 : Nat) ≤ r.cnt := by omega
      have h1 : RingOk C (r.dropOldest C) := Ring.remove_ok h hk
      have hc1 : (r.dropOldest C).cnt < C := by simp [Ring.dropOldest]; omega
      obtain ⟨ok, hseq, hd, hw⟩ := ih (d + 1) (Ring.write_ok h1 hc1 x)
      simp only [hf, if_true]
      refine ⟨ok, ?_, ?_, ?_⟩
      · rw [hseq, Ring.write_seq h1 hc1, Ring.dropOldest_eq, Ring.remove_seq]
        have hlast : (r.seq C).drop 1 ++ [x] = lastSamples C (r.seq C ++ [x]) := by
          simp only [lastSamples, List.length_append, Ring.seq_length, List.length_singleton]
          rw [List.drop_append_of_le_length (by simp; omega)]
          congr 2; omega
        rw [hlast, lastSamples_append]; simp
      · rw [hd]; simp [Ring.write, Ring.dropOldest]; omega
      · rw [hw]
        show ((r.wr + 1) % C + rest.length) % C = _
        rw [Nat.mod_add_mod]; congr 1; simp; omega
    · have hc : r.cnt < C := by
        rcases Nat.lt_or_ge r.cnt C with h' | h'
        · exact h'
        · exact absurd ((Ring.isFull_iff C r).mpr (by omega)) hf
      obtain ⟨ok, hseq, hd, hw⟩ := ih d (Ring.write_ok h hc x)
      simp only [hf]
      refine ⟨ok, ?_, ?_, ?_⟩
      · simp only [Bool.false_eq_true, if_false]; rw [hseq, Ring.write_seq h hc]; simp
      · simp only [Bool.false_eq_true, if_false]; rw [hd]; simp [Ring.write]; omega
      · simp only [Bool.false_eq_true, if_false]; rw [hw]
        show ((r.wr + 1) % C + rest.length) % C = _
        rw [Nat.mod_add_mod]; congr 1; simp; omega

theorem Ring.push_cnt {C : Nat} (hC : 1 ≤ C) (l : List Sample) {r : Ring} (d : Nat) (h : RingOk C r) :
    (Ring.push C l r d).1.cnt = min C (r.cnt + l.length) := by
  rw [← Ring.seq_length C, (Ring.push_spec hC l d h).2.1]; simp

end Sys2Proof.Machine
end

