-- ==== Sys2Proof/Laws/State.lean ====
section
/-! SUPPORT. Laws/State.lean: one lemma per field and state update, so that no proof unfolds a record update; then, for each
shared operation, the fields it never writes. -/

namespace Sys2Proof.Machine

/-! ### The primitives of R10 -/

@[simp] theorem State.emit_cfg (e : Event) (s : State) : (s.emit e).cfg = s.cfg := rfl
@[simp] theorem State.emit_rb (e : Event) (s : State) : (s.emit e).rb = s.rb := rfl
@[simp] theorem State.emit_acc (e : Event) (s : State) : (s.emit e).acc = s.acc := rfl
@[simp] theorem State.emit_rc (e : Event) (s : State) : (s.emit e).rc = s.rc := rfl
@[simp] theorem State.emit_diag (e : Event) (s : State) : (s.emit e).diag = s.diag := rfl
@[simp] theorem State.emit_out (e : Event) (s : State) : (s.emit e).out = s.out ++ [e] := rfl
@[simp] theorem State.emit_refused (e : Event) (s : State) : (s.emit e).refused = s.refused := rfl
@[simp] theorem State.emit_results (e : Event) (s : State) : (s.emit e).results = s.results := rfl
@[simp] theorem State.emit_refusals (e : Event) (s : State) : (s.emit e).refusals = s.refusals := rfl
@[simp] theorem State.emit_absorbed (e : Event) (s : State) : (s.emit e).absorbed = s.absorbed := rfl
@[simp] theorem State.emit_sends (e : Event) (s : State) : (s.emit e).sends = s.sends := rfl
@[simp] theorem State.emit_prodStream (e : Event) (s : State) : (s.emit e).prodStream = s.prodStream := rfl
@[simp] theorem State.emit_consStream (e : Event) (s : State) : (s.emit e).consStream = s.consStream := rfl
@[simp] theorem State.emit_turns (e : Event) (s : State) : (s.emit e).turns = s.turns := rfl

@[simp] theorem State.absorb_cfg (c : Condition) (s : State) : (s.absorb c).cfg = s.cfg := rfl
@[simp] theorem State.absorb_rb (c : Condition) (s : State) : (s.absorb c).rb = s.rb := rfl
@[simp] theorem State.absorb_acc (c : Condition) (s : State) : (s.absorb c).acc = s.acc := rfl
@[simp] theorem State.absorb_rc (c : Condition) (s : State) : (s.absorb c).rc = s.rc := rfl
@[simp] theorem State.absorb_diag (c : Condition) (s : State) : (s.absorb c).diag = s.diag := rfl
@[simp] theorem State.absorb_out (c : Condition) (s : State) : (s.absorb c).out = s.out := rfl
@[simp] theorem State.absorb_refused (c : Condition) (s : State) : (s.absorb c).refused = s.refused := rfl
@[simp] theorem State.absorb_results (c : Condition) (s : State) : (s.absorb c).results = s.results := rfl
@[simp] theorem State.absorb_refusals (c : Condition) (s : State) : (s.absorb c).refusals = s.refusals := rfl
@[simp] theorem State.absorb_absorbed (c : Condition) (s : State) : (s.absorb c).absorbed = s.absorbed ++ [c] := rfl
@[simp] theorem State.absorb_sends (c : Condition) (s : State) : (s.absorb c).sends = s.sends := rfl
@[simp] theorem State.absorb_prodStream (c : Condition) (s : State) : (s.absorb c).prodStream = s.prodStream := rfl
@[simp] theorem State.absorb_consStream (c : Condition) (s : State) : (s.absorb c).consStream = s.consStream := rfl
@[simp] theorem State.absorb_turns (c : Condition) (s : State) : (s.absorb c).turns = s.turns := rfl

@[simp] theorem State.respond_cfg (p : Port) (r : Result) (s : State) : (s.respond p r).cfg = s.cfg := rfl
@[simp] theorem State.respond_rb (p : Port) (r : Result) (s : State) : (s.respond p r).rb = s.rb := rfl
@[simp] theorem State.respond_acc (p : Port) (r : Result) (s : State) : (s.respond p r).acc = s.acc := rfl
@[simp] theorem State.respond_rc (p : Port) (r : Result) (s : State) : (s.respond p r).rc = s.rc := rfl
@[simp] theorem State.respond_diag (p : Port) (r : Result) (s : State) : (s.respond p r).diag = s.diag := rfl
@[simp] theorem State.respond_out (p : Port) (r : Result) (s : State) : (s.respond p r).out = s.out := rfl
@[simp] theorem State.respond_refused (p : Port) (r : Result) (s : State) : (s.respond p r).refused = s.refused := rfl
@[simp] theorem State.respond_results (p : Port) (r : Result) (s : State) : (s.respond p r).results = s.results ++ [(p, r)] := rfl
@[simp] theorem State.respond_refusals (p : Port) (r : Result) (s : State) : (s.respond p r).refusals = s.refusals := rfl
@[simp] theorem State.respond_absorbed (p : Port) (r : Result) (s : State) : (s.respond p r).absorbed = s.absorbed := rfl
@[simp] theorem State.respond_sends (p : Port) (r : Result) (s : State) : (s.respond p r).sends = s.sends := rfl
@[simp] theorem State.respond_prodStream (p : Port) (r : Result) (s : State) : (s.respond p r).prodStream = s.prodStream := rfl
@[simp] theorem State.respond_consStream (p : Port) (r : Result) (s : State) : (s.respond p r).consStream = s.consStream := rfl
@[simp] theorem State.respond_turns (p : Port) (r : Result) (s : State) : (s.respond p r).turns = s.turns := rfl

@[simp] theorem State.refuse_cfg (p : Port) (r : RefusalReason) (s : State) : (s.refuse p r).cfg = s.cfg := rfl
@[simp] theorem State.refuse_rb (p : Port) (r : RefusalReason) (s : State) : (s.refuse p r).rb = s.rb := rfl
@[simp] theorem State.refuse_acc (p : Port) (r : RefusalReason) (s : State) : (s.refuse p r).acc = s.acc := rfl
@[simp] theorem State.refuse_rc (p : Port) (r : RefusalReason) (s : State) : (s.refuse p r).rc = s.rc := rfl
@[simp] theorem State.refuse_diag (p : Port) (r : RefusalReason) (s : State) : (s.refuse p r).diag = s.diag := rfl
@[simp] theorem State.refuse_out (p : Port) (r : RefusalReason) (s : State) : (s.refuse p r).out = s.out := rfl
@[simp] theorem State.refuse_refused (p : Port) (r : RefusalReason) (s : State) : (s.refuse p r).refused = true := rfl
@[simp] theorem State.refuse_results (p : Port) (r : RefusalReason) (s : State) : (s.refuse p r).results = s.results := rfl
@[simp] theorem State.refuse_refusals (p : Port) (r : RefusalReason) (s : State) : (s.refuse p r).refusals = s.refusals ++ [(p, r)] := rfl
@[simp] theorem State.refuse_absorbed (p : Port) (r : RefusalReason) (s : State) : (s.refuse p r).absorbed = s.absorbed := rfl
@[simp] theorem State.refuse_sends (p : Port) (r : RefusalReason) (s : State) : (s.refuse p r).sends = s.sends := rfl
@[simp] theorem State.refuse_prodStream (p : Port) (r : RefusalReason) (s : State) : (s.refuse p r).prodStream = s.prodStream := rfl
@[simp] theorem State.refuse_consStream (p : Port) (r : RefusalReason) (s : State) : (s.refuse p r).consStream = s.consStream := rfl
@[simp] theorem State.refuse_turns (p : Port) (r : RefusalReason) (s : State) : (s.refuse p r).turns = s.turns := rfl

/-! ### The streams -/

@[simp] theorem State.setStream_cfg (p : Port) (T : List Byte) (s : State) : (s.setStream p T).cfg = s.cfg := by
  cases p <;> rfl
@[simp] theorem State.setStream_rb (p : Port) (T : List Byte) (s : State) : (s.setStream p T).rb = s.rb := by
  cases p <;> rfl
@[simp] theorem State.setStream_acc (p : Port) (T : List Byte) (s : State) : (s.setStream p T).acc = s.acc := by
  cases p <;> rfl
@[simp] theorem State.setStream_rc (p : Port) (T : List Byte) (s : State) : (s.setStream p T).rc = s.rc := by
  cases p <;> rfl
@[simp] theorem State.setStream_diag (p : Port) (T : List Byte) (s : State) : (s.setStream p T).diag = s.diag := by
  cases p <;> rfl
@[simp] theorem State.setStream_out (p : Port) (T : List Byte) (s : State) : (s.setStream p T).out = s.out := by
  cases p <;> rfl
@[simp] theorem State.setStream_refused (p : Port) (T : List Byte) (s : State) : (s.setStream p T).refused = s.refused := by
  cases p <;> rfl
@[simp] theorem State.setStream_results (p : Port) (T : List Byte) (s : State) : (s.setStream p T).results = s.results := by
  cases p <;> rfl
@[simp] theorem State.setStream_refusals (p : Port) (T : List Byte) (s : State) : (s.setStream p T).refusals = s.refusals := by
  cases p <;> rfl
@[simp] theorem State.setStream_absorbed (p : Port) (T : List Byte) (s : State) : (s.setStream p T).absorbed = s.absorbed := by
  cases p <;> rfl
@[simp] theorem State.setStream_sends (p : Port) (T : List Byte) (s : State) : (s.setStream p T).sends = s.sends := by
  cases p <;> rfl
@[simp] theorem State.setStream_turns (p : Port) (T : List Byte) (s : State) : (s.setStream p T).turns = s.turns := by
  cases p <;> rfl

@[simp] theorem State.stream_prod (s : State) : s.stream .prod = s.prodStream := rfl
@[simp] theorem State.stream_cons (s : State) : s.stream .cons = s.consStream := rfl

@[simp] theorem State.setStream_stream (p : Port) (T : List Byte) (s : State) : (s.setStream p T).stream p = T := by
  cases p <;> rfl

/-- Taking a transaction from one port leaves the other port's bytes. -/
theorem State.setStream_stream_ne {p q : Port} (h : q ≠ p) (T : List Byte) (s : State) :
    (s.setStream p T).stream q = s.stream q := by
  cases p <;> cases q <;> first | rfl | exact absurd rfl h

@[simp] theorem State.taken_cfg (p : Port) (l : List Port) (T : List Byte) (s : State) : (s.taken p l T).cfg = s.cfg := by
  cases p <;> rfl
@[simp] theorem State.taken_rb (p : Port) (l : List Port) (T : List Byte) (s : State) : (s.taken p l T).rb = s.rb := by
  cases p <;> rfl
@[simp] theorem State.taken_acc (p : Port) (l : List Port) (T : List Byte) (s : State) : (s.taken p l T).acc = s.acc := by
  cases p <;> rfl
@[simp] theorem State.taken_rc (p : Port) (l : List Port) (T : List Byte) (s : State) : (s.taken p l T).rc = s.rc := by
  cases p <;> rfl
@[simp] theorem State.taken_diag (p : Port) (l : List Port) (T : List Byte) (s : State) : (s.taken p l T).diag = s.diag := by
  cases p <;> rfl
@[simp] theorem State.taken_out (p : Port) (l : List Port) (T : List Byte) (s : State) : (s.taken p l T).out = s.out := by
  cases p <;> rfl
@[simp] theorem State.taken_refused (p : Port) (l : List Port) (T : List Byte) (s : State) : (s.taken p l T).refused = s.refused := by
  cases p <;> rfl
@[simp] theorem State.taken_results (p : Port) (l : List Port) (T : List Byte) (s : State) : (s.taken p l T).results = s.results := by
  cases p <;> rfl
@[simp] theorem State.taken_refusals (p : Port) (l : List Port) (T : List Byte) (s : State) : (s.taken p l T).refusals = s.refusals := by
  cases p <;> rfl
@[simp] theorem State.taken_absorbed (p : Port) (l : List Port) (T : List Byte) (s : State) : (s.taken p l T).absorbed = s.absorbed := by
  cases p <;> rfl
@[simp] theorem State.taken_sends (p : Port) (l : List Port) (T : List Byte) (s : State) : (s.taken p l T).sends = s.sends := by
  cases p <;> rfl
@[simp] theorem State.taken_turns (p : Port) (l : List Port) (T : List Byte) (s : State) : (s.taken p l T).turns = l := by
  cases p <;> rfl

/-! ### The ring's operations write RB, a counter and the absorbed conditions -/

@[simp] theorem State.countDrop_cfg (s : State) : (s.countDrop).cfg = s.cfg := by
  unfold State.countDrop; split <;> rfl
@[simp] theorem State.countDrop_rb (s : State) : (s.countDrop).rb = s.rb := by
  unfold State.countDrop; split <;> rfl
@[simp] theorem State.countDrop_acc (s : State) : (s.countDrop).acc = s.acc := by
  unfold State.countDrop; split <;> rfl
@[simp] theorem State.countDrop_rc (s : State) : (s.countDrop).rc = s.rc := by
  unfold State.countDrop; split <;> rfl
@[simp] theorem State.countDrop_out (s : State) : (s.countDrop).out = s.out := by
  unfold State.countDrop; split <;> rfl
@[simp] theorem State.countDrop_refused (s : State) : (s.countDrop).refused = s.refused := by
  unfold State.countDrop; split <;> rfl
@[simp] theorem State.countDrop_results (s : State) : (s.countDrop).results = s.results := by
  unfold State.countDrop; split <;> rfl
@[simp] theorem State.countDrop_refusals (s : State) : (s.countDrop).refusals = s.refusals := by
  unfold State.countDrop; split <;> rfl
@[simp] theorem State.countDrop_absorbed (s : State) : (s.countDrop).absorbed = s.absorbed := by
  unfold State.countDrop; split <;> rfl
@[simp] theorem State.countDrop_sends (s : State) : (s.countDrop).sends = s.sends := by
  unfold State.countDrop; split <;> rfl
@[simp] theorem State.countDrop_prodStream (s : State) : (s.countDrop).prodStream = s.prodStream := by
  unfold State.countDrop; split <;> rfl
@[simp] theorem State.countDrop_consStream (s : State) : (s.countDrop).consStream = s.consStream := by
  unfold State.countDrop; split <;> rfl
@[simp] theorem State.countDrop_turns (s : State) : (s.countDrop).turns = s.turns := by
  unfold State.countDrop; split <;> rfl

@[simp] theorem State.countUnderflow_cfg (s : State) : (s.countUnderflow).cfg = s.cfg := by
  unfold State.countUnderflow; split <;> rfl
@[simp] theorem State.countUnderflow_rb (s : State) : (s.countUnderflow).rb = s.rb := by
  unfold State.countUnderflow; split <;> rfl
@[simp] theorem State.countUnderflow_acc (s : State) : (s.countUnderflow).acc = s.acc := by
  unfold State.countUnderflow; split <;> rfl
@[simp] theorem State.countUnderflow_rc (s : State) : (s.countUnderflow).rc = s.rc := by
  unfold State.countUnderflow; split <;> rfl
@[simp] theorem State.countUnderflow_out (s : State) : (s.countUnderflow).out = s.out := by
  unfold State.countUnderflow; split <;> rfl
@[simp] theorem State.countUnderflow_refused (s : State) : (s.countUnderflow).refused = s.refused := by
  unfold State.countUnderflow; split <;> rfl
@[simp] theorem State.countUnderflow_results (s : State) : (s.countUnderflow).results = s.results := by
  unfold State.countUnderflow; split <;> rfl
@[simp] theorem State.countUnderflow_refusals (s : State) : (s.countUnderflow).refusals = s.refusals := by
  unfold State.countUnderflow; split <;> rfl
@[simp] theorem State.countUnderflow_absorbed (s : State) : (s.countUnderflow).absorbed = s.absorbed := by
  unfold State.countUnderflow; split <;> rfl
@[simp] theorem State.countUnderflow_sends (s : State) : (s.countUnderflow).sends = s.sends := by
  unfold State.countUnderflow; split <;> rfl
@[simp] theorem State.countUnderflow_prodStream (s : State) : (s.countUnderflow).prodStream = s.prodStream := by
  unfold State.countUnderflow; split <;> rfl
@[simp] theorem State.countUnderflow_consStream (s : State) : (s.countUnderflow).consStream = s.consStream := by
  unfold State.countUnderflow; split <;> rfl
@[simp] theorem State.countUnderflow_turns (s : State) : (s.countUnderflow).turns = s.turns := by
  unfold State.countUnderflow; split <;> rfl

@[simp] theorem State.pushSamples_cfg (l : List Sample) (s : State) : (s.pushSamples l).cfg = s.cfg := by
  simp only [State.pushSamples]; split <;> simp
@[simp] theorem State.pushSamples_acc (l : List Sample) (s : State) : (s.pushSamples l).acc = s.acc := by
  simp only [State.pushSamples]; split <;> simp
@[simp] theorem State.pushSamples_rc (l : List Sample) (s : State) : (s.pushSamples l).rc = s.rc := by
  simp only [State.pushSamples]; split <;> simp
@[simp] theorem State.pushSamples_out (l : List Sample) (s : State) : (s.pushSamples l).out = s.out := by
  simp only [State.pushSamples]; split <;> simp
@[simp] theorem State.pushSamples_refused (l : List Sample) (s : State) : (s.pushSamples l).refused = s.refused := by
  simp only [State.pushSamples]; split <;> simp
@[simp] theorem State.pushSamples_results (l : List Sample) (s : State) : (s.pushSamples l).results = s.results := by
  simp only [State.pushSamples]; split <;> simp
@[simp] theorem State.pushSamples_refusals (l : List Sample) (s : State) : (s.pushSamples l).refusals = s.refusals := by
  simp only [State.pushSamples]; split <;> simp
@[simp] theorem State.pushSamples_sends (l : List Sample) (s : State) : (s.pushSamples l).sends = s.sends := by
  simp only [State.pushSamples]; split <;> simp
@[simp] theorem State.pushSamples_prodStream (l : List Sample) (s : State) : (s.pushSamples l).prodStream = s.prodStream := by
  simp only [State.pushSamples]; split <;> simp
@[simp] theorem State.pushSamples_consStream (l : List Sample) (s : State) : (s.pushSamples l).consStream = s.consStream := by
  simp only [State.pushSamples]; split <;> simp
@[simp] theorem State.pushSamples_turns (l : List Sample) (s : State) : (s.pushSamples l).turns = s.turns := by
  simp only [State.pushSamples]; split <;> simp

@[simp] theorem State.popSamples_cfg (n : Nat) (s : State) : (s.popSamples n).cfg = s.cfg := by
  simp only [State.popSamples]; split <;> simp
@[simp] theorem State.popSamples_acc (n : Nat) (s : State) : (s.popSamples n).acc = s.acc := by
  simp only [State.popSamples]; split <;> simp
@[simp] theorem State.popSamples_rc (n : Nat) (s : State) : (s.popSamples n).rc = s.rc := by
  simp only [State.popSamples]; split <;> simp
@[simp] theorem State.popSamples_out (n : Nat) (s : State) : (s.popSamples n).out = s.out := by
  simp only [State.popSamples]; split <;> simp
@[simp] theorem State.popSamples_refused (n : Nat) (s : State) : (s.popSamples n).refused = s.refused := by
  simp only [State.popSamples]; split <;> simp
@[simp] theorem State.popSamples_results (n : Nat) (s : State) : (s.popSamples n).results = s.results := by
  simp only [State.popSamples]; split <;> simp
@[simp] theorem State.popSamples_refusals (n : Nat) (s : State) : (s.popSamples n).refusals = s.refusals := by
  simp only [State.popSamples]; split <;> simp
@[simp] theorem State.popSamples_sends (n : Nat) (s : State) : (s.popSamples n).sends = s.sends := by
  simp only [State.popSamples]; split <;> simp
@[simp] theorem State.popSamples_prodStream (n : Nat) (s : State) : (s.popSamples n).prodStream = s.prodStream := by
  simp only [State.popSamples]; split <;> simp
@[simp] theorem State.popSamples_consStream (n : Nat) (s : State) : (s.popSamples n).consStream = s.consStream := by
  simp only [State.popSamples]; split <;> simp
@[simp] theorem State.popSamples_turns (n : Nat) (s : State) : (s.popSamples n).turns = s.turns := by
  simp only [State.popSamples]; split <;> simp

/-! ### The transport's operations write ACC, OUT, the absorbed conditions and the radio's coming answers -/

@[simp] theorem State.sendFrame_cfg (f : List Byte) (s : State) : (s.sendFrame f).cfg = s.cfg := by
  simp only [State.sendFrame]; split <;> rfl
@[simp] theorem State.sendFrame_rb (f : List Byte) (s : State) : (s.sendFrame f).rb = s.rb := by
  simp only [State.sendFrame]; split <;> rfl
@[simp] theorem State.sendFrame_acc (f : List Byte) (s : State) : (s.sendFrame f).acc = s.acc := by
  simp only [State.sendFrame]; split <;> rfl
@[simp] theorem State.sendFrame_rc (f : List Byte) (s : State) : (s.sendFrame f).rc = s.rc := by
  simp only [State.sendFrame]; split <;> rfl
@[simp] theorem State.sendFrame_diag (f : List Byte) (s : State) : (s.sendFrame f).diag = s.diag := by
  simp only [State.sendFrame]; split <;> rfl
@[simp] theorem State.sendFrame_refused (f : List Byte) (s : State) : (s.sendFrame f).refused = s.refused := by
  simp only [State.sendFrame]; split <;> rfl
@[simp] theorem State.sendFrame_results (f : List Byte) (s : State) : (s.sendFrame f).results = s.results := by
  simp only [State.sendFrame]; split <;> rfl
@[simp] theorem State.sendFrame_refusals (f : List Byte) (s : State) : (s.sendFrame f).refusals = s.refusals := by
  simp only [State.sendFrame]; split <;> rfl
@[simp] theorem State.sendFrame_prodStream (f : List Byte) (s : State) : (s.sendFrame f).prodStream = s.prodStream := by
  simp only [State.sendFrame]; split <;> rfl
@[simp] theorem State.sendFrame_consStream (f : List Byte) (s : State) : (s.sendFrame f).consStream = s.consStream := by
  simp only [State.sendFrame]; split <;> rfl
@[simp] theorem State.sendFrame_turns (f : List Byte) (s : State) : (s.sendFrame f).turns = s.turns := by
  simp only [State.sendFrame]; split <;> rfl

@[simp] theorem State.addSample_cfg (x : Sample) (s : State) : (s.addSample x).cfg = s.cfg := by
  simp only [State.addSample]; split <;> simp
@[simp] theorem State.addSample_rb (x : Sample) (s : State) : (s.addSample x).rb = s.rb := by
  simp only [State.addSample]; split <;> simp
@[simp] theorem State.addSample_rc (x : Sample) (s : State) : (s.addSample x).rc = s.rc := by
  simp only [State.addSample]; split <;> simp
@[simp] theorem State.addSample_diag (x : Sample) (s : State) : (s.addSample x).diag = s.diag := by
  simp only [State.addSample]; split <;> simp
@[simp] theorem State.addSample_refused (x : Sample) (s : State) : (s.addSample x).refused = s.refused := by
  simp only [State.addSample]; split <;> simp
@[simp] theorem State.addSample_results (x : Sample) (s : State) : (s.addSample x).results = s.results := by
  simp only [State.addSample]; split <;> simp
@[simp] theorem State.addSample_refusals (x : Sample) (s : State) : (s.addSample x).refusals = s.refusals := by
  simp only [State.addSample]; split <;> simp
@[simp] theorem State.addSample_prodStream (x : Sample) (s : State) : (s.addSample x).prodStream = s.prodStream := by
  simp only [State.addSample]; split <;> simp
@[simp] theorem State.addSample_consStream (x : Sample) (s : State) : (s.addSample x).consStream = s.consStream := by
  simp only [State.addSample]; split <;> simp
@[simp] theorem State.addSample_turns (x : Sample) (s : State) : (s.addSample x).turns = s.turns := by
  simp only [State.addSample]; split <;> simp

@[simp] theorem State.flushAccumulator_cfg (s : State) : (s.flushAccumulator).cfg = s.cfg := by
  simp only [State.flushAccumulator]; split <;> simp
@[simp] theorem State.flushAccumulator_rb (s : State) : (s.flushAccumulator).rb = s.rb := by
  simp only [State.flushAccumulator]; split <;> simp
@[simp] theorem State.flushAccumulator_rc (s : State) : (s.flushAccumulator).rc = s.rc := by
  simp only [State.flushAccumulator]; split <;> simp
@[simp] theorem State.flushAccumulator_diag (s : State) : (s.flushAccumulator).diag = s.diag := by
  simp only [State.flushAccumulator]; split <;> simp
@[simp] theorem State.flushAccumulator_refused (s : State) : (s.flushAccumulator).refused = s.refused := by
  simp only [State.flushAccumulator]; split <;> simp
@[simp] theorem State.flushAccumulator_results (s : State) : (s.flushAccumulator).results = s.results := by
  simp only [State.flushAccumulator]; split <;> simp
@[simp] theorem State.flushAccumulator_refusals (s : State) : (s.flushAccumulator).refusals = s.refusals := by
  simp only [State.flushAccumulator]; split <;> simp
@[simp] theorem State.flushAccumulator_prodStream (s : State) : (s.flushAccumulator).prodStream = s.prodStream := by
  simp only [State.flushAccumulator]; split <;> simp
@[simp] theorem State.flushAccumulator_consStream (s : State) : (s.flushAccumulator).consStream = s.consStream := by
  simp only [State.flushAccumulator]; split <;> simp
@[simp] theorem State.flushAccumulator_turns (s : State) : (s.flushAccumulator).turns = s.turns := by
  simp only [State.flushAccumulator]; split <;> simp

@[simp] theorem State.addSamples_cfg (l : List Sample) (s : State) : (s.addSamples l).cfg = s.cfg := by
  induction l generalizing s with
  | nil => rfl
  | cons x rest ih => simp [State.addSamples, ih]
@[simp] theorem State.addSamples_rb (l : List Sample) (s : State) : (s.addSamples l).rb = s.rb := by
  induction l generalizing s with
  | nil => rfl
  | cons x rest ih => simp [State.addSamples, ih]
@[simp] theorem State.addSamples_rc (l : List Sample) (s : State) : (s.addSamples l).rc = s.rc := by
  induction l generalizing s with
  | nil => rfl
  | cons x rest ih => simp [State.addSamples, ih]
@[simp] theorem State.addSamples_diag (l : List Sample) (s : State) : (s.addSamples l).diag = s.diag := by
  induction l generalizing s with
  | nil => rfl
  | cons x rest ih => simp [State.addSamples, ih]
@[simp] theorem State.addSamples_refused (l : List Sample) (s : State) : (s.addSamples l).refused = s.refused := by
  induction l generalizing s with
  | nil => rfl
  | cons x rest ih => simp [State.addSamples, ih]
@[simp] theorem State.addSamples_results (l : List Sample) (s : State) : (s.addSamples l).results = s.results := by
  induction l generalizing s with
  | nil => rfl
  | cons x rest ih => simp [State.addSamples, ih]
@[simp] theorem State.addSamples_refusals (l : List Sample) (s : State) : (s.addSamples l).refusals = s.refusals := by
  induction l generalizing s with
  | nil => rfl
  | cons x rest ih => simp [State.addSamples, ih]
@[simp] theorem State.addSamples_prodStream (l : List Sample) (s : State) : (s.addSamples l).prodStream = s.prodStream := by
  induction l generalizing s with
  | nil => rfl
  | cons x rest ih => simp [State.addSamples, ih]
@[simp] theorem State.addSamples_consStream (l : List Sample) (s : State) : (s.addSamples l).consStream = s.consStream := by
  induction l generalizing s with
  | nil => rfl
  | cons x rest ih => simp [State.addSamples, ih]
@[simp] theorem State.addSamples_turns (l : List Sample) (s : State) : (s.addSamples l).turns = s.turns := by
  induction l generalizing s with
  | nil => rfl
  | cons x rest ih => simp [State.addSamples, ih]

/-! ### The coordinator's actions -/

@[simp] theorem State.enterTransmit_cfg (now : Word32) (s : State) : (s.enterTransmit now).cfg = s.cfg := by
  rfl
@[simp] theorem State.enterTransmit_rb (now : Word32) (s : State) : (s.enterTransmit now).rb = s.rb := by
  rfl
@[simp] theorem State.enterTransmit_acc (now : Word32) (s : State) : (s.enterTransmit now).acc = s.acc := by
  rfl
@[simp] theorem State.enterTransmit_diag (now : Word32) (s : State) : (s.enterTransmit now).diag = s.diag := by
  rfl
@[simp] theorem State.enterTransmit_refused (now : Word32) (s : State) : (s.enterTransmit now).refused = s.refused := by
  rfl
@[simp] theorem State.enterTransmit_results (now : Word32) (s : State) : (s.enterTransmit now).results = s.results := by
  rfl
@[simp] theorem State.enterTransmit_refusals (now : Word32) (s : State) : (s.enterTransmit now).refusals = s.refusals := by
  rfl
@[simp] theorem State.enterTransmit_absorbed (now : Word32) (s : State) : (s.enterTransmit now).absorbed = s.absorbed := by
  rfl
@[simp] theorem State.enterTransmit_sends (now : Word32) (s : State) : (s.enterTransmit now).sends = s.sends := by
  rfl
@[simp] theorem State.enterTransmit_prodStream (now : Word32) (s : State) : (s.enterTransmit now).prodStream = s.prodStream := by
  rfl
@[simp] theorem State.enterTransmit_consStream (now : Word32) (s : State) : (s.enterTransmit now).consStream = s.consStream := by
  rfl
@[simp] theorem State.enterTransmit_turns (now : Word32) (s : State) : (s.enterTransmit now).turns = s.turns := by
  rfl

@[simp] theorem State.enterTransmit_rc (now : Word32) (s : State) :
    (s.enterTransmit now).rc = { phase := .transmit, t_entry := now } := rfl

@[simp] theorem State.enterTransmit_out (now : Word32) (s : State) :
    (s.enterTransmit now).out = s.out ++ [.snkStop, .capStart, .ind true] := by
  simp [State.enterTransmit]

@[simp] theorem State.enterReceive_rc (now : Word32) (s : State) :
    (s.enterReceive now).rc = { phase := .receive, t_entry := now } := rfl

@[simp] theorem State.enterReceive_cfg (now : Word32) (s : State) : (s.enterReceive now).cfg = s.cfg := by
  simp [State.enterReceive]
@[simp] theorem State.enterReceive_rb (now : Word32) (s : State) : (s.enterReceive now).rb = s.rb := by
  simp [State.enterReceive]
@[simp] theorem State.enterReceive_diag (now : Word32) (s : State) : (s.enterReceive now).diag = s.diag := by
  simp [State.enterReceive]
@[simp] theorem State.enterReceive_refused (now : Word32) (s : State) : (s.enterReceive now).refused = s.refused := by
  simp [State.enterReceive]
@[simp] theorem State.enterReceive_results (now : Word32) (s : State) : (s.enterReceive now).results = s.results := by
  simp [State.enterReceive]
@[simp] theorem State.enterReceive_refusals (now : Word32) (s : State) : (s.enterReceive now).refusals = s.refusals := by
  simp [State.enterReceive]
@[simp] theorem State.enterReceive_prodStream (now : Word32) (s : State) : (s.enterReceive now).prodStream = s.prodStream := by
  simp [State.enterReceive]
@[simp] theorem State.enterReceive_consStream (now : Word32) (s : State) : (s.enterReceive now).consStream = s.consStream := by
  simp [State.enterReceive]
@[simp] theorem State.enterReceive_turns (now : Word32) (s : State) : (s.enterReceive now).turns = s.turns := by
  simp [State.enterReceive]

@[simp] theorem State.enterReceive_out (now : Word32) (s : State) :
    (s.enterReceive now).out = s.flushAccumulator.out ++ [.capStop, .snkStart s.cfg.RATE, .ind false] := by
  simp [State.enterReceive]

@[simp] theorem State.enterReceive_acc (now : Word32) (s : State) :
    (s.enterReceive now).acc = s.flushAccumulator.acc := rfl

@[simp] theorem State.receiveBody_cfg (s : State) : (s.receiveBody).cfg = s.cfg := by
  simp [State.receiveBody]
@[simp] theorem State.receiveBody_acc (s : State) : (s.receiveBody).acc = s.acc := by
  simp [State.receiveBody]
@[simp] theorem State.receiveBody_rc (s : State) : (s.receiveBody).rc = s.rc := by
  simp [State.receiveBody]
@[simp] theorem State.receiveBody_refused (s : State) : (s.receiveBody).refused = s.refused := by
  simp [State.receiveBody]
@[simp] theorem State.receiveBody_results (s : State) : (s.receiveBody).results = s.results := by
  simp [State.receiveBody]
@[simp] theorem State.receiveBody_refusals (s : State) : (s.receiveBody).refusals = s.refusals := by
  simp [State.receiveBody]
@[simp] theorem State.receiveBody_sends (s : State) : (s.receiveBody).sends = s.sends := by
  simp [State.receiveBody]
@[simp] theorem State.receiveBody_prodStream (s : State) : (s.receiveBody).prodStream = s.prodStream := by
  simp [State.receiveBody]
@[simp] theorem State.receiveBody_consStream (s : State) : (s.receiveBody).consStream = s.consStream := by
  simp [State.receiveBody]
@[simp] theorem State.receiveBody_turns (s : State) : (s.receiveBody).turns = s.turns := by
  simp [State.receiveBody]

@[simp] theorem State.receiveBody_rb (s : State) : s.receiveBody.rb = (s.popSamples s.cfg.K_POP).rb := rfl

@[simp] theorem State.receiveBody_out (s : State) :
    s.receiveBody.out = s.out ++ [.snkWr (s.popped s.cfg.K_POP)] := by
  simp [State.receiveBody]

@[simp] theorem State.transmitBody_cfg (l : List Sample) (s : State) : (s.transmitBody l).cfg = s.cfg := by
  simp [State.transmitBody]
@[simp] theorem State.transmitBody_rb (l : List Sample) (s : State) : (s.transmitBody l).rb = s.rb := by
  simp [State.transmitBody]
@[simp] theorem State.transmitBody_rc (l : List Sample) (s : State) : (s.transmitBody l).rc = s.rc := by
  simp [State.transmitBody]
@[simp] theorem State.transmitBody_diag (l : List Sample) (s : State) : (s.transmitBody l).diag = s.diag := by
  simp [State.transmitBody]
@[simp] theorem State.transmitBody_refused (l : List Sample) (s : State) : (s.transmitBody l).refused = s.refused := by
  simp [State.transmitBody]
@[simp] theorem State.transmitBody_results (l : List Sample) (s : State) : (s.transmitBody l).results = s.results := by
  simp [State.transmitBody]
@[simp] theorem State.transmitBody_refusals (l : List Sample) (s : State) : (s.transmitBody l).refusals = s.refusals := by
  simp [State.transmitBody]
@[simp] theorem State.transmitBody_prodStream (l : List Sample) (s : State) : (s.transmitBody l).prodStream = s.prodStream := by
  simp [State.transmitBody]
@[simp] theorem State.transmitBody_consStream (l : List Sample) (s : State) : (s.transmitBody l).consStream = s.consStream := by
  simp [State.transmitBody]
@[simp] theorem State.transmitBody_turns (l : List Sample) (s : State) : (s.transmitBody l).turns = s.turns := by
  simp [State.transmitBody]

end Sys2Proof.Machine
end

