-- ==== Sys2Proof/Laws/Ops.lean ====
section
/-! SUPPORT. Laws/Ops.lean: one lemma per shared operation that says everything it does, as an update of the state. -/

namespace Sys2Proof.Machine

theorem StorageInv.posC {s : State} (h : StorageInv s) : 1 ≤ s.cfg.C := by have := h.rdRange; omega

theorem StorageInv.posM {s : State} (h : StorageInv s) : 1 ≤ s.cfg.M := by have := h.lenRange; omega

@[simp] theorem State.seq_length (s : State) : s.seq.length = s.rb.cnt := by simp [State.seq]

/-- The dwell floor in numbers (R161). -/
theorem State.floorElapsed_iff (s : State) (now : Word32) :
    s.floorElapsed now = true ↔ s.cfg.T_DWELL ≤ (now - s.rc.t_entry).toNat := decide_eq_true_iff

/-- PUSH as one update, in every state (R100). -/
theorem State.pushSamples_update (s : State) (l : List Sample) :
    s.pushSamples l =
      { s with
        rb := (Ring.push s.cfg.C l s.rb 0).1
        diag := if (Ring.push s.cfg.C l s.rb 0).2 > 0 ∧ s.cfg.DIAG = true
          then { s.diag with drop_events := s.diag.drop_events + 1#32 } else s.diag
        absorbed := s.absorbed ++ (if (Ring.push s.cfg.C l s.rb 0).2 > 0 then [.rbDrop] else []) } := by
  unfold State.pushSamples
  by_cases hd : (Ring.push s.cfg.C l s.rb 0).2 > 0
  · by_cases hg : s.cfg.DIAG = true <;> simp [hd, hg, State.countDrop, State.absorb]
  · simp [hd]

/-- PUSH as one update (R100). -/
theorem State.pushSamples_eq {s : State} (h : StorageInv s) (l : List Sample) :
    s.pushSamples l =
      { s with
        rb := (Ring.push s.cfg.C l s.rb 0).1
        diag := diagAfterPush s l
        absorbed := s.absorbed ++ (if drops s l then [.rbDrop] else []) } := by
  have hd := (Ring.push_spec h.posC l 0 h.ring).2.2.1
  unfold State.pushSamples diagAfterPush drops
  by_cases hlt : s.cfg.C < s.rb.cnt + l.length
  · have : (Ring.push s.cfg.C l s.rb 0).2 > 0 := by omega
    by_cases hg : s.cfg.DIAG = true <;> simp [this, hlt, hg, State.countDrop, State.absorb]
  · have : ¬ (Ring.push s.cfg.C l s.rb 0).2 > 0 := by omega
    simp [this, hlt]

/-- POP as one update (R101). -/
theorem State.popSamples_eq (s : State) (n : Nat) :
    s.popSamples n =
      { s with
        rb := s.rb.remove s.cfg.C (min s.rb.cnt n)
        diag := diagAfterPop s n
        absorbed := s.absorbed ++ (if fallsShort s n then [.rbUnderflow] else []) } := by
  unfold State.popSamples diagAfterPop fallsShort
  by_cases hlt : s.rb.cnt < n
  · have : min s.rb.cnt n < n := by omega
    by_cases hg : s.cfg.DIAG = true <;> simp [hlt, hg, State.countUnderflow, State.absorb]
  · have : ¬ min s.rb.cnt n < n := by omega
    simp [hlt]

/-- What POP returns (R103). -/
theorem State.popped_eq (s : State) (n : Nat) :
    s.popped n = s.seq.take (min s.rb.cnt n) ++ List.replicate (n - min s.rb.cnt n) 0#16 := by
  simp only [State.popped, State.seq]
  rw [Ring.oldest_eq_take _ _ (Nat.min_le_left _ _)]

/-- A send as one update (R141, R199). -/
theorem State.sendFrame_eq (s : State) (f : List Byte) :
    s.sendFrame f =
      { s with
        out := s.out ++ [.txf f]
        sends := s.sends.drop 1
        absorbed := s.absorbed ++ sendConditions 1 s } := by
  unfold State.sendFrame sendConditions
  cases hs : s.sends with
  | nil => simp [State.emit, hs]
  | cons a later => cases a <;> simp [State.emit, State.absorb, hs]

/-- ADD into an accumulator that stays partial (R142). -/
theorem State.addSample_partial {s : State} (x : Sample) (h : s.acc.len + 1 ≠ s.cfg.M) :
    s.addSample x = { s with acc := { data := s.acc.data.set s.acc.len x, len := s.acc.len + 1 } } := by
  simp [State.addSample, h]

/-- The samples collected after one more is written. -/
theorem Accumulator.collected_set (a : Accumulator) (x : Sample) (h : a.len < a.data.length) :
    (a.data.set a.len x).take (a.len + 1) = a.collected ++ [x] := by
  rw [List.take_succ_eq_append_getElem (by simpa using h)]
  simp [Accumulator.collected, List.take_set_of_le]

@[simp] theorem Accumulator.collected_length {a : Accumulator} (h : a.len ≤ a.data.length) :
    a.collected.length = a.len := by simp [Accumulator.collected, h]

/-- ADD that fills the accumulator (R142). -/
theorem State.addSample_full {s : State} (x : Sample) (hd : s.acc.data.length = s.cfg.M) (h : s.acc.len + 1 = s.cfg.M) :
    s.addSample x =
      { s with
        acc := { data := s.acc.data.set s.acc.len x, len := 0 }
        out := s.out ++ [.txf (buildFrame s.cfg (s.acc.collected ++ [x]))]
        sends := s.sends.drop 1
        absorbed := s.absorbed ++ sendConditions 1 s } := by
  have hc := Accumulator.collected_set s.acc x (by omega)
  rw [h] at hc
  simp only [State.addSample, h, if_true, hc, State.sendFrame_eq]
  rfl

/-- FLUSH of a partial frame (R143). -/
theorem State.flushAccumulator_some {s : State} (h : 0 < s.acc.len) :
    s.flushAccumulator =
      { s with
        acc := { s.acc with len := 0 }
        out := s.out ++ [.txf (buildFrame s.cfg s.acc.collected)]
        sends := s.sends.drop 1
        absorbed := s.absorbed ++ sendConditions 1 s } := by
  simp only [State.flushAccumulator, gt_iff_lt, h, if_true, State.sendFrame_eq]
  rfl

/-- FLUSH of an empty accumulator (R143). -/
theorem State.flushAccumulator_none {s : State} (h : s.acc.len = 0) : s.flushAccumulator = s := by
  simp [State.flushAccumulator, h]

@[simp] theorem State.flushAccumulator_len (s : State) : s.flushAccumulator.acc.len = 0 := by
  by_cases h : s.acc.len = 0
  · rw [State.flushAccumulator_none h, h]
  · rw [State.flushAccumulator_some (by omega)]

theorem State.flushAccumulator_out (s : State) : s.flushAccumulator.out = s.out ++ flushFrames s := by
  by_cases h : s.acc.len = 0
  · simp [State.flushAccumulator_none h, flushFrames, h]
  · rw [State.flushAccumulator_some (by omega)]
    simp [flushFrames, Nat.pos_of_ne_zero h]

end Sys2Proof.Machine
end

