-- ==== Sys2Proof/Laws/Transport.lean ====
section
/-! SUPPORT. Laws/Transport.lean: the storage invariant under each shared operation, and what a run of ADDs sends (R144). -/

namespace Sys2Proof.Machine

/-- The accumulator's part of StorageInv. -/
structure AccOk (M : Nat) (a : Accumulator) : Prop where
  dataSize : a.data.length = M
  lenRange : a.len < M

theorem StorageInv.accumulator {s : State} (h : StorageInv s) : AccOk s.cfg.M s.acc := ⟨h.dataSize, h.lenRange⟩

/-- The invariant from its parts, for a state with the same configuration. -/
theorem StorageInv.of_parts {s t : State} (h : StorageInv s) (hc : t.cfg = s.cfg) (hr : RingOk s.cfg.C t.rb)
    (ha : AccOk s.cfg.M t.acc) : StorageInv t where
  legalConfig := hc ▸ h.legalConfig
  bufSize := hc ▸ hr.bufSize
  rdRange := hc ▸ hr.rdRange
  wrRange := hc ▸ hr.wrRange
  cntRange := hc ▸ hr.cntRange
  cursors := hc ▸ hr.cursors
  dataSize := hc ▸ ha.dataSize
  lenRange := hc ▸ ha.lenRange

/-- The invariant reads only the configuration, the ring and the accumulator. -/
theorem StorageInv.congr {s t : State} (h : StorageInv s) (hc : t.cfg = s.cfg) (hr : t.rb = s.rb)
    (ha : t.acc = s.acc) : StorageInv t :=
  h.of_parts hc (hr ▸ h.ring) (ha ▸ h.accumulator)

theorem StorageInv.pushSamples {s : State} (h : StorageInv s) (l : List Sample) : StorageInv (s.pushSamples l) := by
  rw [State.pushSamples_eq h]
  exact h.of_parts rfl (Ring.push_spec h.posC l 0 h.ring).1 h.accumulator

theorem StorageInv.popSamples {s : State} (h : StorageInv s) (n : Nat) : StorageInv (s.popSamples n) := by
  rw [State.popSamples_eq]
  exact h.of_parts rfl (Ring.remove_ok h.ring (Nat.min_le_left _ _)) h.accumulator

theorem AccOk.addSample {s : State} (h : AccOk s.cfg.M s.acc) (x : Sample) : AccOk s.cfg.M (s.addSample x).acc := by
  have := h.lenRange
  by_cases hf : s.acc.len + 1 = s.cfg.M
  · rw [State.addSample_full x h.dataSize hf]
    exact ⟨by simp [h.dataSize], by simp; omega⟩
  · rw [State.addSample_partial x hf]
    exact ⟨by simp [h.dataSize], by simp; omega⟩

theorem AccOk.flushAccumulator {s : State} (h : AccOk s.cfg.M s.acc) : AccOk s.cfg.M s.flushAccumulator.acc := by
  by_cases hz : s.acc.len = 0
  · rw [State.flushAccumulator_none hz]; exact h
  · rw [State.flushAccumulator_some (by omega)]
    exact ⟨h.dataSize, by have := h.lenRange; simp; omega⟩

theorem AccOk.addSamples (l : List Sample) : ∀ {s : State}, AccOk s.cfg.M s.acc → AccOk s.cfg.M (s.addSamples l).acc := by
  induction l with
  | nil => exact fun h => h
  | cons x rest ih =>
    intro s h
    have h1 : AccOk (s.addSample x).cfg.M (s.addSample x).acc := by simpa using h.addSample x
    simpa [State.addSamples] using ih h1

/-! ### Chunks -/

theorem fullFrames_of_lt {cfg : Config} {l : List Sample} (h : l.length < cfg.M) : fullFrames cfg l = [] := by
  simp [fullFrames, Nat.div_eq_of_lt h]

theorem unframed_of_lt {cfg : Config} {l : List Sample} (h : l.length < cfg.M) : unframed cfg l = l := by
  simp [unframed, Nat.mod_eq_of_lt h]

/-- A full chunk in front is one frame more. -/
theorem fullFrames_chunk {cfg : Config} {chunk : List Sample} (h : chunk.length = cfg.M) (hM : 1 ≤ cfg.M)
    (rest : List Sample) :
    fullFrames cfg (chunk ++ rest) = .txf (buildFrame cfg chunk) :: fullFrames cfg rest := by
  simp only [fullFrames, List.length_append, h, Nat.add_div_left _ hM, List.range_succ_eq_map, List.map_cons,
    List.map_map]
  congr 1
  · simp [← h]
  · apply List.map_congr_left
    intro j _
    have hdrop : (chunk ++ rest).drop ((j + 1) * cfg.M) = rest.drop (j * cfg.M) := by
      rw [Nat.add_mul, Nat.one_mul, Nat.add_comm, ← h, ← List.drop_drop, List.drop_left]
    simp only [Function.comp_apply, Nat.succ_eq_add_one, hdrop]

theorem unframed_chunk {cfg : Config} {chunk : List Sample} (h : chunk.length = cfg.M) (rest : List Sample) :
    unframed cfg (chunk ++ rest) = unframed cfg rest := by
  have hle := Nat.mod_le rest.length cfg.M
  simp only [unframed, List.length_append, h, Nat.add_mod_left]
  rw [Nat.add_sub_assoc hle, ← h, List.drop_append]
  simp

/-- Frames and rest of a run, from the frames and the rest of its first part. -/
theorem frames_append {cfg : Config} (hM : 1 ≤ cfg.M) (k : Nat) :
    ∀ (a b : List Sample), a.length ≤ k →
      fullFrames cfg (a ++ b) = fullFrames cfg a ++ fullFrames cfg (unframed cfg a ++ b)
      ∧ unframed cfg (a ++ b) = unframed cfg (unframed cfg a ++ b) := by
  induction k with
  | zero =>
    intro a b h
    have : a.length < cfg.M := by omega
    simp [fullFrames_of_lt this, unframed_of_lt this]
  | succ k ih =>
    intro a b h
    by_cases hlt : a.length < cfg.M
    · simp [fullFrames_of_lt hlt, unframed_of_lt hlt]
    · have hc : (a.take cfg.M).length = cfg.M := by simp; omega
      obtain ⟨h1, h2⟩ := ih (a.drop cfg.M) b (by simp; omega)
      have e : a ++ b = a.take cfg.M ++ (a.drop cfg.M ++ b) := by rw [← List.append_assoc, List.take_append_drop]
      have f1 := fullFrames_chunk hc hM (a.drop cfg.M)
      have f2 := unframed_chunk hc (a.drop cfg.M)
      rw [List.take_append_drop] at f1 f2
      rw [e, fullFrames_chunk hc hM, unframed_chunk hc, h1, h2, f1, f2]
      simp

theorem Accumulator.collected_partial {s : State} (h : AccOk s.cfg.M s.acc) (x : Sample) (hf : s.acc.len + 1 ≠ s.cfg.M) :
    (s.addSample x).acc.collected = s.acc.collected ++ [x] := by
  rw [State.addSample_partial x hf]
  exact Accumulator.collected_set s.acc x (by rw [h.dataSize]; exact h.lenRange)

/-- What `m + n` answers add is what the first `m` add, and then what the next `n` add. -/
theorem sendConditions_add (m n : Nat) {s t : State} (h : t.sends = s.sends.drop m) :
    sendConditions (m + n) s = sendConditions m s ++ sendConditions n t := by
  simp [sendConditions, h, List.take_add]

/-- A run of ADDs: one frame for each full chunk of what was collected and what came, one answer of the radio for each
frame, and the rest stays collected. -/
theorem State.addSamples_spec (l : List Sample) :
    ∀ {s : State}, AccOk s.cfg.M s.acc →
      (s.addSamples l).out = s.out ++ fullFrames s.cfg (s.acc.collected ++ l)
      ∧ (s.addSamples l).acc.collected = unframed s.cfg (s.acc.collected ++ l)
      ∧ (s.addSamples l).sends = s.sends.drop ((s.acc.len + l.length) / s.cfg.M)
      ∧ (s.addSamples l).absorbed = s.absorbed ++ sendConditions ((s.acc.len + l.length) / s.cfg.M) s := by
  induction l with
  | nil =>
    intro s h
    have hlt : s.acc.collected.length < s.cfg.M := by
      have := h.lenRange
      rw [Accumulator.collected_length (by rw [h.dataSize]; omega)]; exact this
    simp [State.addSamples, fullFrames_of_lt hlt, unframed_of_lt hlt, Nat.div_eq_of_lt h.lenRange, sendConditions]
  | cons x rest ih =>
    intro s h
    have hM : 1 ≤ s.cfg.M := by have := h.lenRange; omega
    have h1 : AccOk (s.addSample x).cfg.M (s.addSample x).acc := by simpa using h.addSample x
    obtain ⟨ho, hc, hs, ha⟩ := ih h1
    simp only [State.addSamples, ho, hc, hs, ha, State.addSample_cfg]
    by_cases hf : s.acc.len + 1 = s.cfg.M
    · have hlen : (s.acc.collected ++ [x]).length = s.cfg.M := by
        rw [List.length_append, Accumulator.collected_length (by rw [h.dataSize]; omega)]; exact hf
      have hsplit : s.acc.collected ++ x :: rest = (s.acc.collected ++ [x]) ++ rest := by simp
      have hcount : (s.acc.len + (rest.length + 1)) / s.cfg.M = 1 + rest.length / s.cfg.M := by
        rw [show s.acc.len + (rest.length + 1) = s.cfg.M + rest.length by omega, Nat.add_div_left _ hM, Nat.add_comm]
      rw [hsplit, fullFrames_chunk hlen hM, unframed_chunk hlen, List.length_cons, hcount,
        sendConditions_add 1 (rest.length / s.cfg.M) (s := s) (t := s.addSample x)
          (by rw [State.addSample_full x h.dataSize hf]), State.addSample_full x h.dataSize hf]
      simp [Accumulator.collected, Nat.add_comm]
    · have hcount : s.acc.len + 1 + rest.length = s.acc.len + (rest.length + 1) := by omega
      rw [Accumulator.collected_partial h x hf, State.addSample_partial x hf]
      simp [hcount, sendConditions]

theorem unframed_length (cfg : Config) (l : List Sample) : (unframed cfg l).length = l.length % cfg.M := by
  have := Nat.mod_le l.length cfg.M
  simp [unframed]; omega

end Sys2Proof.Machine
end

