-- ==== Sys2Proof/Laws/Exec.lean ====
section
/-! SUPPORT. Laws/Exec.lean: what a transaction, and a step, can do, said once: every arm answers a next state, and which. -/

namespace Sys2Proof.Machine

/-- STEP takes one of five ways (R160): a refusal, a transition either way, or a body either way. -/
theorem execStep_cases (now : Word32) (ptt : Bool) (c : List Sample) (s : State) :
    (∃ r, execStep now ptt c s = .next (s.refuse .cons r))
    ∨ (s.rc.phase = .receive ∧ s.floorElapsed now = true ∧ ptt = true ∧ c = [] ∧
        execStep now ptt c s = .next ((s.enterTransmit now).respond .cons .nothing))
    ∨ (s.rc.phase = .receive ∧ (s.floorElapsed now && ptt) = false ∧ c = [] ∧
        execStep now ptt c s = .next (s.receiveBody.respond .cons .nothing))
    ∨ (s.rc.phase = .transmit ∧ s.floorElapsed now = true ∧ ptt = false ∧ c = [] ∧
        execStep now ptt c s = .next ((s.enterReceive now).respond .cons .nothing))
    ∨ (s.rc.phase = .transmit ∧ (s.floorElapsed now && !ptt) = false ∧ c.length ≤ s.cfg.K_CAP ∧
        execStep now ptt c s = .next ((s.transmitBody c).respond .cons .nothing)) := by
  unfold execStep
  by_cases hk : c.length > s.cfg.K_CAP
  · exact .inl ⟨.operandRange, by simp [hk]⟩
  · have hle : c.length ≤ s.cfg.K_CAP := by omega
    simp only [hk, if_false]
    cases hp : s.rc.phase with
    | receive =>
      by_cases hc : c = []
      · by_cases hd : (s.floorElapsed now && ptt) = true
        · have := hd
          simp only [Bool.and_eq_true] at this
          exact .inr (.inl ⟨rfl, this.1, this.2, hc, by simp [hc, hd]⟩)
        · exact .inr (.inr (.inl ⟨rfl, by simpa using hd, hc, by simp [hc, hd]⟩))
      · exact .inl ⟨.captureUnexpected, by simp [hc]⟩
    | transmit =>
      by_cases hd : (s.floorElapsed now && !ptt) = true
      · have hd' := hd
        simp only [Bool.and_eq_true, Bool.not_eq_true'] at hd'
        by_cases hc : c = []
        · exact .inr (.inr (.inr (.inl ⟨rfl, hd'.1, hd'.2, hc, by simp [hc, hd]⟩)))
        · exact .inl ⟨.captureUnexpected, by simp [hc, hd]⟩
      · exact .inr (.inr (.inr (.inr ⟨rfl, by simpa using hd, hle, by simp [hd]⟩)))

/-- What a transaction does, up to what it returns: one of the shared operations, or a refusal (R100 to R160). -/
inductive Effect (s : State) : Instr → State → Prop where
  | refused (i : Instr) (r : RefusalReason) (h : i.op = .pack ∨ i.op = .step) : Effect s i (s.refuse i.port r)
  | push (l : List Sample) : Effect s (.push l) ((s.pushSamples l).respond .prod .nothing)
  | pop (n : Nat) : Effect s (.pop n) ((s.popSamples n).respond .cons (.samples (s.popped n)))
  | pack (p : Port) (l : List Sample) : Effect s (.pack p l) (s.respond p (.frame (buildFrame s.cfg l)))
  | unpack (p : Port) (b : List Byte) : Effect s (.unpack p b) (s.respond p (.unpacked (unpackFrame s.cfg b)))
  | rxfDiscard (b : List Byte) (h : unpackFrame s.cfg b = .malformed) :
      Effect s (.rxf b) ((s.absorb .rxMalformed).respond .prod .nothing)
  | rxfPush (b : List Byte) (l : List Sample) (h : unpackFrame s.cfg b = .ok l) :
      Effect s (.rxf b) ((s.pushSamples l).respond .prod .nothing)
  | add (x : Sample) : Effect s (.add x) ((s.addSample x).respond .cons .nothing)
  | flush : Effect s .flush (s.flushAccumulator.respond .cons .nothing)
  | enterTransmit (now : Word32) (h : s.rc.phase = .receive) (hd : s.floorElapsed now = true) :
      Effect s (.step now true []) ((s.enterTransmit now).respond .cons .nothing)
  | receiveBody (now : Word32) (ptt : Bool) (h : s.rc.phase = .receive) (hd : (s.floorElapsed now && ptt) = false) :
      Effect s (.step now ptt []) (s.receiveBody.respond .cons .nothing)
  | enterReceive (now : Word32) (h : s.rc.phase = .transmit) (hd : s.floorElapsed now = true) :
      Effect s (.step now false []) ((s.enterReceive now).respond .cons .nothing)
  | transmitBody (now : Word32) (ptt : Bool) (c : List Sample) (h : s.rc.phase = .transmit)
      (hd : (s.floorElapsed now && !ptt) = false) :
      Effect s (.step now ptt c) ((s.transmitBody c).respond .cons .nothing)

/-- The inversion lemma of exec: every transaction answers a next state, and it is one of the effects. -/
theorem exec_effect (i : Instr) (s : State) : ∃ t, exec i s = .next t ∧ Effect s i t := by
  cases i with
  | push l => exact ⟨_, rfl, .push l⟩
  | pop n => exact ⟨_, rfl, .pop n⟩
  | pack p l =>
    by_cases h : packInRange s.cfg l = true
    · exact ⟨_, by simp [exec, execPack, h], .pack p l⟩
    · exact ⟨s.refuse p .operandRange, by simp [exec, execPack, h], .refused (.pack p l) .operandRange (.inl rfl)⟩
  | unpack p b => exact ⟨_, rfl, .unpack p b⟩
  | rxf b =>
    cases h : unpackFrame s.cfg b with
    | malformed => exact ⟨_, by simp [exec, execRxf, h], .rxfDiscard b h⟩
    | ok l => exact ⟨_, by simp [exec, execRxf, h], .rxfPush b l h⟩
  | add x => exact ⟨_, rfl, .add x⟩
  | flush => exact ⟨_, rfl, .flush⟩
  | step now ptt c =>
    rcases execStep_cases now ptt c s with ⟨r, h⟩ | ⟨hp, hd, rfl, rfl, h⟩ | ⟨hp, hd, rfl, h⟩ | ⟨hp, hd, rfl, rfl, h⟩ |
      ⟨hp, hd, -, h⟩
    · exact ⟨_, h, .refused (.step now ptt c) r (.inr rfl)⟩
    · exact ⟨_, h, .enterTransmit now hp hd⟩
    · exact ⟨_, h, .receiveBody now ptt hp hd⟩
    · exact ⟨_, h, .enterReceive now hp hd⟩
    · exact ⟨_, h, .transmitBody now ptt c hp hd⟩

theorem exec_next_effect {i : Instr} {s t : State} (h : exec i s = .next t) : Effect s i t := by
  obtain ⟨u, hu, he⟩ := exec_effect i s
  rw [h] at hu
  cases hu
  exact he

/-- Runs compose. -/
theorem execAll_append (a b : List Instr) : ∀ {s t : State}, execAll a s = .next t → execAll (a ++ b) s = execAll b t := by
  induction a with
  | nil => intro s t h; cases h; rfl
  | cons i rest ih =>
    intro s t h
    obtain ⟨u, hu, -⟩ := exec_effect i s
    simp only [List.cons_append, execAll, hu] at h ⊢
    exact ih h

/-- A property that holds after taking the bytes, after each effect and after a refusal holds after a step. -/
theorem step_cases {s t : State} (h : step s = .next t) :
    t = s
    ∨ (∃ p later i rest, s.turns = p :: later ∧ decode p (s.stream p) = .ok i rest ∧
        exec i (s.taken p later rest) = .next t)
    ∨ (∃ p later r, s.turns = p :: later ∧ decode p (s.stream p) = .refused r ∧ t = s.refusedAtDecode p later r) := by
  unfold step at h
  split at h
  · cases h; exact .inl rfl
  · rename_i p later ht
    split at h
    · exact .inr (.inl ⟨p, later, _, _, ht, ‹_›, h⟩)
    · cases h; exact .inr (.inr ⟨p, later, _, ht, ‹_›, rfl⟩)

end Sys2Proof.Machine
end

