-- ==== Sys2Proof/Laws/PerInstr.lean ====
section
/-! SUPPORT. Laws/PerInstr.lean: facts about every transaction as syntax, one lemma a constructor (LAWS.json). -/

namespace Sys2Proof.Laws.EncodedLength

open Sys2Proof Sys2Proof.Machine

/-- A well-formed transaction is `4 + area_length(format(OP), N)` bytes long (R81). -/
def Statement (i : Instr) : Prop :=
  i.wellFormed = true → (encode i).length = 4 + areaLength i.op.format i.fieldN.toNat

/-- The shared part: four command-word bytes and the operand area. -/
theorem of_area (i : Instr) : Statement i := by
  intro h
  simp [encode, operandArea_length h]

theorem push (samples : List Sample) : Statement (.push samples) := of_area _
theorem pop (count : Nat) : Statement (.pop count) := of_area _
theorem pack (port : Port) (samples : List Sample) : Statement (.pack port samples) := of_area _
theorem unpack (port : Port) (bytes : List Byte) : Statement (.unpack port bytes) := of_area _
theorem rxf (bytes : List Byte) : Statement (.rxf bytes) := of_area _
theorem add (sample : Sample) : Statement (.add sample) := of_area _
theorem flush : Statement .flush := of_area _
theorem step (now : Word32) (ptt : Bool) (captured : List Sample) : Statement (.step now ptt captured) := of_area _

end Sys2Proof.Laws.EncodedLength
end

