-- ==== Sys2Proof/Tests/Slice0.lean ====
section
/-! SUPPORT. Tests/Slice0.lean: the model's own tests. Every expected result is a row of spec/95_test_vectors.md or of
30_encoding.md §8, named in the test's comment; and one witness theorem for every obligation that has hypotheses. -/

namespace Sys2Proof.Tests

open Sys2Proof Sys2Proof.Machine

/-! ### Helpers -/

/-- The state a transaction, a step or a construction ends in, if it ends in one. -/
def nextOf : Host.Outcome State Fault Refusal → Option State
  | .next s => some s
  | _ => none

/-- A state of the test configuration with this ring. -/
def withRing (buf : List Sample) (rd wr cnt : Nat) : State :=
  { State.reset with rb := { buf := buf, rd := rd, wr := wr, cnt := cnt } }

/-- A state of the test configuration with these samples collected. -/
def withCollected (samples : List Sample) : State :=
  { State.reset with
    acc := { data := samples ++ List.replicate (3 - samples.length) 0#16, len := samples.length } }

/-- A TRANSMIT state of the test configuration, entered at clock 1000, with these samples collected. -/
def transmitting (samples : List Sample) : State :=
  { withCollected samples with
    rc := { phase := .transmit, t_entry := 1000#32 }
    out := [.snkStart 16000, .snkStop, .capStart, .ind true] }

/-- The columns of the ring tables: `RB = {seq, rd, wr, cnt}`. -/
def ringOf (s : State) : List Sample × Nat × Nat × Nat := (s.seq, s.rb.rd, s.rb.wr, s.rb.cnt)

/-! ### WellFormed refuses each ill-formed term (R71, R74) -/

/-- 65536 operands do not fit `N`. -/
theorem tooLong {α : Type} (a : α) : fitsN (List.replicate 65536 a).length = false := by
  rw [List.length_replicate]; decide

theorem test_illFormed_push : (Instr.push (List.replicate 65536 0#16)).wellFormed = false :=
  tooLong _

theorem test_illFormed_pop : (Instr.pop 65536).wellFormed = false := by decide

theorem test_illFormed_pack : (Instr.pack .cons (List.replicate 65536 0#16)).wellFormed = false :=
  tooLong _

theorem test_illFormed_unpack : (Instr.unpack .prod (List.replicate 65536 0#8)).wellFormed = false :=
  tooLong _

theorem test_illFormed_rxf : (Instr.rxf (List.replicate 65536 0#8)).wellFormed = false :=
  tooLong _

theorem test_illFormed_step : (Instr.step 0#32 false (List.replicate 65536 0#16)).wellFormed = false :=
  tooLong _

/-! ### Decoding -/

/-- 30_encoding.md §8, PUSH; V10 (extreme samples). -/
theorem test_decode_push :
    decode .prod [0x03, 0x00, 0x00, 0x10, 0x0A, 0x00, 0x14, 0x00, 0x1E, 0x00] = .ok (.push [10#16, 20#16, 30#16]) []
    ∧ decode .prod [0x02, 0x00, 0x00, 0x10, 0x00, 0x80, 0xFF, 0x7F] = .ok (.push [0x8000#16, 0x7FFF#16]) [] := by decide

/-- 30_encoding.md §8, POP. -/
theorem test_decode_pop : decode .cons [0x03, 0x00, 0x00, 0x20] = .ok (.pop 3) [] := by decide

/-- 30_encoding.md §8, PACK on CONS; P4 on PROD. -/
theorem test_decode_pack :
    decode .cons [0x01, 0x00, 0x00, 0x30, 0xFF, 0xFF] = .ok (.pack .cons [0xFFFF#16]) []
    ∧ decode .prod [0x02, 0x00, 0x00, 0x30, 0x34, 0x12, 0xFE, 0xFF] = .ok (.pack .prod [0x1234#16, 0xFFFE#16]) [] := by
  decide

/-- 30_encoding.md §8, UNPACK; E16. -/
theorem test_decode_unpack :
    decode .cons [0x04, 0x00, 0x00, 0x40, 0xA5, 0x5A, 0x34, 0x12] = .ok (.unpack .cons [0xA5, 0x5A, 0x34, 0x12]) []
    ∧ decode .prod [0x02, 0x00, 0x00, 0x40, 0xA5, 0x5A] = .ok (.unpack .prod [0xA5, 0x5A]) [] := by decide

/-- 30_encoding.md §8, RXF. -/
theorem test_decode_rxf :
    decode .prod [0x08, 0x00, 0x00, 0x50, 0xA5, 0x5A, 0x0A, 0x00, 0x14, 0x00, 0x1E, 0x00]
      = .ok (.rxf [0xA5, 0x5A, 0x0A, 0x00, 0x14, 0x00, 0x1E, 0x00]) [] := by decide

/-- 30_encoding.md §8, ADD: `-50` is 0xFFCE. -/
theorem test_decode_add : decode .cons [0xCE, 0xFF, 0x00, 0x60] = .ok (.add 0xFFCE#16) [] := by decide

/-- 30_encoding.md §8, FLUSH. -/
theorem test_decode_flush : decode .cons [0x00, 0x00, 0x00, 0x70] = .ok .flush [] := by decide

/-- 30_encoding.md §8, STEP; E17 (what follows is the next transaction); W3 (the largest clock reading). -/
theorem test_decode_step :
    decode .cons [0x02, 0x00, 0x00, 0x88, 0xDC, 0x05, 0x00, 0x00, 0x64, 0x00, 0xCE, 0xFF]
      = .ok (.step 1500#32 true [100#16, 0xFFCE#16]) []
    ∧ decode .cons [0x00, 0x00, 0x00, 0x80, 0xE8, 0x03, 0x00, 0x00, 0x00, 0x00, 0x00, 0x70]
      = .ok (.step 1000#32 false []) [0x00, 0x00, 0x00, 0x70]
    ∧ decode .cons [0x00, 0x00, 0x00, 0x88, 0xFF, 0xFF, 0xFF, 0xFF] = .ok (.step 4294967295#32 true []) [] := by decide

/-- E1 to E7: the first failing check decides. -/
theorem test_decode_refusals :
    decode .cons [0x00, 0x00, 0x00, 0x00] = .refused .illegalOpcode
    ∧ decode .cons [0x00, 0x00, 0x00, 0x90] = .refused .illegalOpcode
    ∧ decode .prod [0x00, 0x00, 0x00, 0xF0] = .refused .illegalOpcode
    ∧ decode .prod [0x00, 0x00, 0x01, 0x10] = .refused .reservedNonzero
    ∧ decode .prod [0x00, 0x00, 0x00, 0x18] = .refused .reservedNonzero
    ∧ decode .cons [0x01, 0x00, 0x00, 0x70] = .refused .reservedNonzero
    ∧ decode .prod [0x03, 0x00, 0x00, 0x20] = .refused .wrongPort := by decide

/-- E8 to E14. -/
theorem test_decode_refusals_later :
    decode .cons [0x04, 0x00, 0x00, 0x50, 0xA5, 0x5A, 0x01, 0x00] = .refused .wrongPort
    ∧ decode .cons [0x01, 0x00, 0x00, 0x10, 0x01, 0x00] = .refused .wrongPort
    ∧ decode .prod [0x03, 0x00, 0x00, 0x10, 0x0A, 0x00, 0x14, 0x00] = .refused .truncated
    ∧ decode .cons [0x00, 0x00, 0x80] = .refused .truncated
    ∧ decode .cons [0x00, 0x00, 0x00, 0x80, 0xE8, 0x03] = .refused .truncated
    ∧ decode .prod [0x03, 0x00, 0x01, 0x20] = .refused .reservedNonzero
    ∧ decode .cons [0x00, 0x00, 0x00, 0xA8] = .refused .illegalOpcode := by decide

/-- R201, R195, R211, R31: the codes and the identifiers. -/
theorem test_codes :
    RefusalReason.code .illegalOpcode = 0x81 ∧ RefusalReason.code .reservedNonzero = 0x82
    ∧ RefusalReason.code .wrongPort = 0x83 ∧ RefusalReason.code .truncated = 0x84
    ∧ RefusalReason.code .operandRange = 0x85 ∧ RefusalReason.code .captureUnexpected = 0x86
    ∧ RefusalReason.code .configInvalid = 0x87
    ∧ Condition.rbDrop.code = 1 ∧ Condition.rbUnderflow.code = 2 ∧ Condition.rxMalformed.code = 3
    ∧ Condition.txSendFail.code = 4 ∧ Condition.driverFail.code = 5
    ∧ Port.prod.identifier = 0 ∧ Port.cons.identifier = 1 ∧ Phase.receive.bit = 0 ∧ Phase.transmit.bit = 1 := by decide

/-! ### The assembler (R84) -/

/-- 30_encoding.md §8: decimal samples; Program 1: a port prefix and a comment. -/
theorem test_assemble_push_and_rxf :
    assembleLine "PUSH 10, 20, 30".toList
      = .ok (some (.prod, [0x03, 0x00, 0x00, 0x10, 0x0A, 0x00, 0x14, 0x00, 0x1E, 0x00]))
    ∧ assembleLine "PROD: RXF 0xA5, 0x5A, 0x28, 0x00    ; an inbound frame".toList
      = .ok (some (.prod, [0x04, 0x00, 0x00, 0x50, 0xA5, 0x5A, 0x28, 0x00])) := ⟨rfl, rfl⟩

/-- 30_encoding.md §8: a negative sample; S4: STEP with captured samples; P4: the hexadecimal spelling. -/
theorem test_assemble_add_step_pack :
    assembleLine "ADD -50".toList = .ok (some (.cons, [0xCE, 0xFF, 0x00, 0x60]))
    ∧ assembleLine "STEP 1200, 0, 1, 2".toList
      = .ok (some (.cons, [0x02, 0x00, 0x00, 0x80, 0xB0, 0x04, 0x00, 0x00, 0x01, 0x00, 0x02, 0x00]))
    ∧ assembleLine "PACK 0x1234, -2".toList
      = .ok (some (.cons, [0x02, 0x00, 0x00, 0x30, 0x34, 0x12, 0xFE, 0xFF])) := ⟨rfl, rfl, rfl⟩

/-- Program 4: the prefix names the port, even a wrong one; R84: an operand out of range is rejected; R85: no other mnemonic. -/
theorem test_assemble_wrong_port_and_range :
    assembleLine "CONS: PUSH 1".toList = .ok (some (.cons, [0x01, 0x00, 0x00, 0x10, 0x01, 0x00]))
    ∧ assembleLine "ADD 32768".toList = .error .badOperand
    ∧ assembleLine "ADD -32769".toList = .error .badOperand
    ∧ assembleLine "RXF 0x100".toList = .error .badOperand
    ∧ assembleLine "POP 65536".toList = .error .badOperand
    ∧ assembleLine "STEP 4294967296, 0".toList = .error .badOperand
    ∧ assembleLine "STEP 1, 2".toList = .error .badOperand
    ∧ assembleLine "NOP".toList = .error .badMnemonic := ⟨rfl, rfl, rfl, rfl, rfl, rfl, rfl, rfl⟩

/-! ### The transactions, one step each -/

/-- V2: the first sample fits, the second drops the oldest. -/
theorem test_push_drops_the_oldest :
    (nextOf (exec (.push [4#16, 5#16]) (withRing [1#16, 2#16, 3#16, 0#16] 0 3 3))).map
        (fun t => (ringOf t, t.diag.drop_events, t.absorbed, t.out))
      = some (([2#16, 3#16, 4#16, 5#16], 1, 1, 4), 1#32, [.rbDrop], [.snkStart 16000]) := by decide

/-- V8: a PUSH longer than the ring; the event is counted once. -/
theorem test_push_longer_than_the_ring :
    (nextOf (exec (.push [10#16, 11#16, 12#16, 13#16, 14#16, 15#16]) (withRing [5#16, 2#16, 3#16, 4#16] 1 1 0))).map
        (fun t => (ringOf t, t.diag.drop_events))
      = some (([12#16, 13#16, 14#16, 15#16], 3, 3, 4), 1#32) := by decide

/-- V3: the read cursor wraps. -/
theorem test_pop_wraps :
    (nextOf (exec (.pop 3) (withRing [5#16, 2#16, 3#16, 4#16] 1 1 4))).map
        (fun t => (ringOf t, t.results, t.diag.underflow_events))
      = some (([5#16], 0, 1, 1), [(.cons, .samples [2#16, 3#16, 4#16])], 0#32) := by decide

/-- V4: partial underflow. -/
theorem test_pop_fills_with_silence :
    (nextOf (exec (.pop 3) (withRing [5#16, 2#16, 3#16, 4#16] 0 1 1))).map
        (fun t => (ringOf t, t.results, t.diag.underflow_events))
      = some (([], 1, 1, 0), [(.cons, .samples [5#16, 0#16, 0#16])], 1#32) := by decide

/-- P2: the longest frame, extreme samples. -/
theorem test_pack_longest :
    (nextOf (exec (.pack .cons [0xFFFF#16, 0#16, 0x7FFF#16]) State.reset)).map (·.results)
      = some [(.cons, .frame [0xA5, 0x5A, 0xFF, 0xFF, 0x00, 0x00, 0xFF, 0x7F])] := by decide

/-- P5, P6: no sample, and more than M, are refused with OPERAND_RANGE. -/
theorem test_pack_range :
    (nextOf (exec (.pack .prod []) State.reset)).map (fun t => (t.refused, t.refusals, t.results))
      = some (true, [(.prod, .operandRange)], [])
    ∧ (nextOf (exec (.pack .cons [1#16, 2#16, 3#16, 4#16]) State.reset)).map (fun t => (t.refused, t.refusals))
      = some (true, [(.cons, .operandRange)]) := by decide

/-- U8: low byte first, most negative sample. -/
theorem test_unpack_ok :
    (nextOf (exec (.unpack .cons [0xFF, 0xFF, 0x00, 0x80, 0xFF, 0x7F]) State.reset)).map (·.results)
      = some [(.cons, .unpacked (.ok [0x8000#16, 0x7FFF#16]))] := by decide

/-- U2, U5, U6: no sample, half a sample, too many samples. -/
theorem test_unpack_malformed :
    unpackFrame Config.testConfiguration [0xA5, 0x5A] = .malformed
    ∧ unpackFrame Config.testConfiguration [0xA5, 0x5A, 0x0A, 0x00, 0x14] = .malformed
    ∧ unpackFrame Config.testConfiguration [0xA5, 0x5A, 0x01, 0x00, 0x02, 0x00, 0x03, 0x00, 0x04, 0x00]
      = .malformed := by decide

/-- T3: a received frame that overflows the ring. -/
theorem test_rxf_overflows :
    (nextOf (exec (.rxf [0xA5, 0x5A, 0x28, 0x00, 0x32, 0x00]) (withRing [10#16, 20#16, 30#16, 0#16] 0 3 3))).map
        (fun t => (ringOf t, t.diag.drop_events))
      = some (([20#16, 30#16, 40#16, 50#16], 1, 1, 4), 1#32) := by decide

/-- T2: half a sample: no partial push. -/
theorem test_rxf_discards :
    (nextOf (exec (.rxf [0xA5, 0x5A, 0x07, 0x00, 0x08]) (withRing [10#16, 20#16, 30#16, 0#16] 0 3 3))).map
        (fun t => (ringOf t, t.absorbed, t.refused))
      = some (([10#16, 20#16, 30#16], 0, 3, 3), [.rxMalformed], false) := by decide

/-- A3: the accumulator reaches M. -/
theorem test_add_sends_a_full_frame :
    (nextOf (exec (.add 3#16) (withCollected [1#16, 2#16]))).map (fun t => (t.acc.len, t.out))
      = some (0, [.snkStart 16000, .txf [0xA5, 0x5A, 0x01, 0x00, 0x02, 0x00, 0x03, 0x00]]) := by decide

/-- A5: the accumulator stays partial. -/
theorem test_add_collects :
    (nextOf (exec (.add 0x7FFF#16) (withCollected [0x8000#16]))).map (fun t => (t.acc.collected, t.out))
      = some ([0x8000#16, 0x7FFF#16], [.snkStart 16000]) := by decide

/-- A6, the radio rejecting the frame (R141, R199). -/
theorem test_flush_sends_the_rest :
    (nextOf (exec .flush { withCollected [0x8000#16, 0x7FFF#16] with sends := [.rejected, .accepted] })).map
        (fun t => (t.acc.len, t.out, t.absorbed, t.sends))
      = some (0, [.snkStart 16000, .txf [0xA5, 0x5A, 0x00, 0x80, 0xFF, 0x7F]], [.txSendFail], [.accepted]) := by decide

/-- A7: an empty accumulator sends nothing. -/
theorem test_flush_empty : (nextOf (exec .flush State.reset)).map (·.out) = some [.snkStart 16000] := by decide

/-- S1, S3, S8 and the clock wrap W1, W2, each a STEP in RECEIVE. -/
theorem test_step_in_receive :
    (nextOf (exec (.step 500#32 true []) State.reset)).map (fun t => (t.out, t.rc, t.diag.underflow_events))
      = some ([.snkStart 16000, .snkWr [0#16, 0#16]], { phase := .receive, t_entry := 0#32 }, 1#32)
    ∧ (nextOf (exec (.step 1000#32 true []) State.reset)).map (fun t => (t.out, t.rc))
      = some ([.snkStart 16000, .snkStop, .capStart, .ind true], { phase := .transmit, t_entry := 1000#32 })
    ∧ (nextOf (exec (.step 2500#32 true [9#16]) State.reset)).map (fun t => (t.refusals, t.out))
      = some ([(.cons, .captureUnexpected)], [.snkStart 16000])
    ∧ ((nextOf (init Config.testConfiguration 0xFFFFFF00#32)).bind
        fun s => nextOf (exec (.step 744#32 true []) s)).map (·.rc) = some { phase := .transmit, t_entry := 744#32 }
    ∧ ((nextOf (init Config.testConfiguration 0xFFFFFF00#32)).bind
        fun s => nextOf (exec (.step 743#32 true []) s)).map (·.rc.phase) = some .receive := by decide

/-- S5, S6, S7, S9, each a STEP in TRANSMIT. -/
theorem test_step_in_transmit :
    (nextOf (exec (.step 1500#32 false [3#16, 4#16]) (transmitting [1#16, 2#16]))).map
        (fun t => (t.out.drop 4, t.acc.collected))
      = some ([.capRd 2, .txf [0xA5, 0x5A, 0x01, 0x00, 0x02, 0x00, 0x03, 0x00]], [4#16])
    ∧ (nextOf (exec (.step 2000#32 true []) (transmitting [4#16]))).map
        (fun t => (t.out.drop 4, t.rc, t.acc.collected))
      = some ([.capRd 0], { phase := .transmit, t_entry := 1000#32 }, [4#16])
    ∧ (nextOf (exec (.step 2000#32 false []) (transmitting [4#16]))).map (fun t => (t.out.drop 4, t.rc, t.acc.len))
      = some ([.txf [0xA5, 0x5A, 0x04, 0x00], .capStop, .snkStart 16000, .ind false],
          { phase := .receive, t_entry := 2000#32 }, 0)
    ∧ (nextOf (exec (.step 1200#32 false [1#16, 2#16, 3#16, 4#16, 5#16]) (transmitting []))).map (·.refusals)
      = some [(.cons, .operandRange)] := by decide

/-! ### Steps and construction -/

/-- Program 4's second line: PUSH on CONS is refused, and FLUSH stands next on the stream. -/
theorem test_step_refuses_wrong_port :
    (nextOf (step { withCollected [5#16] with
        turns := [.cons, .cons], consStream := [0x01, 0x00, 0x00, 0x10, 0x01, 0x00, 0x00, 0x00, 0x00, 0x70] })).map
        (fun t => (t.refused, t.refusals, t.turns, t.consStream))
      = some (true, [(.cons, .wrongPort)], [.cons], [0x00, 0x00, 0x00, 0x70]) := by decide

/-- The table's word of PUSH with `N = 0` (V6), presented after reset, is run by the next step. -/
theorem test_step_runs_the_presented_word :
    decodeTableWord 32 0x10000000 = some (.push [])
    ∧ (nextOf (step (State.reset.withFetchWord 32 0x10000000))).map (fun t => (t.results, t.turns, t.prodStream))
      = some ([(.prod, .nothing)], [], []) := by decide

/-- 95_test_vectors.md §2.5: CONFIG_INVALID for TC with `P_MAX = 7`, `C = 0` or `M = 0`. -/
theorem test_construction_checked :
    legal Config.testConfiguration = true
    ∧ legal { Config.testConfiguration with P_MAX := 7 } = false
    ∧ legal { Config.testConfiguration with C := 0 } = false
    ∧ legal { Config.testConfiguration with M := 0 } = false := by decide

/-! ### One witness for each obligation with hypotheses -/

/-- The storage invariant of a state of the test configuration, from its storage. -/
theorem storageInv_of {s : State} (hc : s.cfg = Config.testConfiguration)
    (h : s.rb.buf.length = 4 ∧ s.rb.rd < 4 ∧ s.rb.wr < 4 ∧ s.rb.cnt ≤ 4 ∧ s.rb.wr = (s.rb.rd + s.rb.cnt) % 4
      ∧ s.acc.data.length = 3 ∧ s.acc.len < 3) : StorageInv s := by
  obtain ⟨h1, h2, h3, h4, h5, h6, h7⟩ := h
  exact ⟨by rw [hc]; decide, by rw [hc]; exact h1, by rw [hc]; exact h2, by rw [hc]; exact h3, by rw [hc]; exact h4,
    by rw [hc]; exact h5, by rw [hc]; exact h6, by rw [hc]; exact h7⟩

theorem storageInv_reset : StorageInv State.reset := storageInv_of rfl (by decide)

theorem witness_DecodeOfEncode :
    (Instr.pop 65535).wellFormed = true ∧ (Instr.step 0xFFFFFFFF#32 true [0x8000#16]).wellFormed = true
    ∧ (Instr.push []).wellFormed = true := by decide

theorem witness_EncodeOfDecode : decode .cons [0xFF, 0xFF, 0x00, 0x20, 0x00] = .ok (.pop 65535) [0x00] := by decide

/-- A short string, and each clause of the check order at a boundary: OP 0 and 9, Z 1 and 2047, P, FLUSH with N, each
port, one byte short, and what passes with N = 65535. -/
theorem witness_DecodeChecksInOrder :
    decode .prod [0x00, 0x00, 0x00] = .refused .truncated
    ∧ decode .prod [0x00, 0x00, 0x00, 0x00] = .refused .illegalOpcode
    ∧ decode .prod [0x00, 0x00, 0x00, 0x90] = .refused .illegalOpcode
    ∧ decode .prod [0x00, 0x00, 0x01, 0x10] = .refused .reservedNonzero
    ∧ decode .cons [0x00, 0x00, 0xFF, 0x87] = .refused .reservedNonzero
    ∧ decode .cons [0x00, 0x00, 0x00, 0x78] = .refused .reservedNonzero
    ∧ decode .cons [0x01, 0x00, 0x00, 0x70] = .refused .reservedNonzero
    ∧ decode .prod [0x00, 0x00, 0x00, 0x80] = .refused .wrongPort
    ∧ decode .cons [0x00, 0x00, 0x00, 0x50] = .refused .wrongPort
    ∧ decode .cons [0x00, 0x00, 0x00, 0x80, 0x00, 0x00, 0x00] = .refused .truncated
    ∧ decode .cons [0xFF, 0xFF, 0x00, 0x20] = .ok (.pop 65535) [] := by decide

theorem witness_CommandWordMatchesItsTableRow :
    Op.allowedOn .push .prod = true ∧ Op.allowedOn .pop .cons = true ∧ Op.allowedOn .pack .prod = true
    ∧ Op.allowedOn .unpack .cons = true ∧ Op.allowedOn .rxf .prod = true ∧ Op.allowedOn .add .cons = true
    ∧ Op.allowedOn .flush .cons = true ∧ Op.allowedOn .step .cons = true := by decide

theorem witness_AssembledLineIsOneTransaction :
    assembleLine "FLUSH".toList = .ok (some (.cons, [0x00, 0x00, 0x00, 0x70]))
    ∧ assembleLine "PROD: PACK 1 ; allowed".toList = .ok (some (.prod, [0x01, 0x00, 0x00, 0x30, 0x01, 0x00]))
    ∧ assembleLine "PROD: POP 1".toList = .ok (some (.prod, [0x01, 0x00, 0x00, 0x20])) := ⟨rfl, rfl, rfl⟩

/-- A state that presents one FLUSH. -/
def presentingFlush : State := { State.reset with turns := [.cons], consStream := [0x00, 0x00, 0x00, 0x70] }

theorem witness_StepRunsTheDecodedTransaction :
    presentingFlush.turns = .cons :: [] ∧ decode .cons (presentingFlush.stream .cons) = .ok .flush [] := by decide

theorem witness_StepWithoutTurnChangesNothing : State.reset.turns = [] := rfl

theorem witness_StepRunsThePresentedTableWord :
    decodeTableWord 32 0x88000000 = some (.step 0#32 true []) ∧ decodeTableWord 32 0x6000FFCE = some (.add 0xFFCE#16)
    ∧ decodeTableWord 32 0x50000002 = some (.rxf [0x00, 0x00]) := by decide

/-- A state that presents one byte string that is too short. -/
def presentingShort : State := { State.reset with turns := [.prod], prodStream := [0x00, 0x00, 0x80], refused := true }

theorem witness_RefusedTransactionLeavesTheCore :
    (presentingShort.turns = .prod :: [] ∧ decode .prod (presentingShort.stream .prod) = .refused .truncated)
    ∧ (nextOf (exec (.pack .cons []) State.reset)).map (fun t => decide (t.refusals ≠ State.reset.refusals)) = some true
    ∧ ((∃ t, step presentingShort = .next t) ∧ presentingShort.refused = true) :=
  ⟨by decide, by decide, ⟨_, rfl⟩, rfl⟩

theorem witness_WrongPortIsRefused :
    (Instr.push [1#16]).wellFormed = true ∧ (Instr.push [1#16]).op.allowedOn .cons = false
    ∧ encode (.push [1#16]) ++ [] = [0x01, 0x00, 0x00, 0x10, 0x01, 0x00]
    ∧ (Instr.step 0#32 false []).op.allowedOn .prod = false := by decide

/-- Every condition of R7 at its boundary: the least and the greatest configuration, and one past each bound. -/
theorem witness_ConstructionIsCheckedByR7 :
    legal { Config.testConfiguration with
      C := 1, M := 1, H := 0, HDR := [], P_MAX := 2, T_DWELL := 0, K_POP := 1, K_CAP := 1, RATE := 1 } = true
    ∧ legal { Config.testConfiguration with M := 65535, P_MAX := 131072, T_DWELL := 2147483647, K_CAP := 65535 } = true
    ∧ legal { Config.testConfiguration with C := 0 } = false ∧ legal { Config.testConfiguration with M := 0 } = false
    ∧ legal { Config.testConfiguration with M := 65536, P_MAX := 131074 } = false
    ∧ legal { Config.testConfiguration with HDR := [0xA5] } = false
    ∧ legal { Config.testConfiguration with P_MAX := 7 } = false
    ∧ legal { Config.testConfiguration with T_DWELL := 2147483648 } = false
    ∧ legal { Config.testConfiguration with K_POP := 0 } = false
    ∧ legal { Config.testConfiguration with K_CAP := 0 } = false
    ∧ legal { Config.testConfiguration with K_CAP := 65536 } = false
    ∧ legal { Config.testConfiguration with RATE := 0 } = false := by decide

theorem witness_ConstructionLeavesTheResetValues :
    legal Config.testConfiguration = true ∧ legal { Config.testConfiguration with RATE := 0 } = false := by decide

theorem witness_StorageInvariantHoldsAfterEveryStep :
    (∃ t, initWith Config.testConfiguration 7#32 [1#16, 2#16, 3#16, 4#16] [5#16, 6#16, 7#16] = .next t)
    ∧ (StorageInv presentingFlush ∧ ∃ t, step presentingFlush = .next t)
    ∧ (StorageInv (withRing [1#16, 2#16, 3#16, 4#16] 2 2 4)
      ∧ (withRing [1#16, 2#16, 3#16, 4#16] 2 2 4).rb.cnt = (withRing [1#16, 2#16, 3#16, 4#16] 2 2 4).cfg.C) :=
  ⟨⟨_, rfl⟩, ⟨storageInv_of rfl (by decide), _, rfl⟩, storageInv_of rfl (by decide), rfl⟩

theorem witness_CollaboratorsFollowThePhase :
    (∃ t, initWith Config.testConfiguration 0#32 [] [] = .next t)
    ∧ (CollaboratorsFollowPhase presentingFlush ∧ ∃ t, step presentingFlush = .next t)
    ∧ CollaboratorsFollowPhase (transmitting [1#16]) := 
  ⟨⟨_, rfl⟩, ⟨⟨rfl, rfl, rfl⟩, _, rfl⟩, rfl, rfl, rfl⟩

theorem witness_EverySentFrameIsLegal :
    StorageInv presentingFlush ∧ SentFramesLegal presentingFlush ∧ ∃ t, step presentingFlush = .next t :=
  ⟨storageInv_of rfl (by decide), fun _ h => by simp [presentingFlush, State.reset, State.constructed] at h, _, rfl⟩

theorem witness_StepKeepsConfigAndExtendsTraces : ∃ t, step presentingFlush = .next t := ⟨_, rfl⟩

/-- Each "written by" clause: a transaction that writes it. -/
theorem witness_StateIsWrittenOnlyByItsOwners :
    (nextOf (exec (.push [1#16]) State.reset)).map (fun t => decide (t.rb ≠ State.reset.rb)) = some true
    ∧ (nextOf (exec (.rxf [0xA5, 0x5A, 0x01, 0x00]) (withRing [1#16, 2#16, 3#16, 4#16] 0 0 4))).map
        (fun t => decide (t.diag.drop_events ≠ 0#32)) = some true
    ∧ (nextOf (exec (.pop 1) State.reset)).map (fun t => decide (t.diag.underflow_events ≠ 0#32)) = some true
    ∧ (nextOf (exec (.add 1#16) State.reset)).map (fun t => decide (t.acc ≠ State.reset.acc)) = some true
    ∧ (nextOf (exec (.step 1000#32 true []) State.reset)).map (fun t => decide (t.rc ≠ State.reset.rc)) = some true
    ∧ (nextOf (exec .flush (withCollected [1#16]))).map (fun t => decide (t.out ≠ State.reset.out)) = some true := by
  decide

theorem witness_PushKeepsTheLastSamples :
    StorageInv State.reset ∧ StorageInv (withRing [1#16, 2#16, 3#16, 4#16] 3 3 4) :=
  ⟨storageInv_reset, storageInv_of rfl (by decide)⟩

theorem witness_PopReturnsOldestThenSilence :
    StorageInv State.reset ∧ StorageInv (withRing [1#16, 2#16, 3#16, 4#16] 3 1 2) :=
  ⟨storageInv_reset, storageInv_of rfl (by decide)⟩

theorem witness_UnderflowIsSilence :
    State.reset.rb.cnt = 0 ∧ (withRing [1#16, 2#16, 3#16, 4#16] 3 1 2).rb.cnt < 3 := by decide

theorem witness_FifoUnderCapacity :
    StorageInv State.reset ∧ State.reset.rb.cnt = 0
    ∧ ([[1#16, 2#16], [], [3#16, 4#16]] : List (List Sample)).flatten.length ≤ State.reset.cfg.C :=
  ⟨storageInv_reset, rfl, by decide⟩

theorem witness_OverflowDropsTheOldest :
    StorageInv State.reset ∧ State.reset.rb.cnt = 0 ∧ 0 < 1
    ∧ ([[1#16, 2#16, 3#16], [4#16, 5#16]] : List (List Sample)).flatten.length = State.reset.cfg.C + 1 :=
  ⟨storageInv_reset, rfl, by decide, by decide⟩

theorem witness_DeliveryIsInPushOrder :
    StorageInv State.reset
    ∧ State.reset.rb.cnt + (pushedSamples State.reset.cfg
        [.rxf [0xA5, 0x5A, 0x0A, 0x00, 0x14, 0x00, 0x1E, 0x00], .step 1#32 false [], .push [1#16], .pop 3]).length
      ≤ State.reset.cfg.C :=
  ⟨storageInv_reset, by decide⟩

/-- Program 1, first two lines: the sink is handed the first two samples of the frame; a POP of three then gets the third,
silence aside. -/
theorem test_delivered_through_rxf_and_step :
    deliveredSamples [.rxf [0xA5, 0x5A, 0x0A, 0x00, 0x14, 0x00, 0x1E, 0x00], .step 100#32 false [], .pop 3] State.reset
      = [10#16, 20#16, 30#16] := by decide

/-- `N` at 1, M, 0 and M + 1. -/
theorem witness_PackBuildsTheWireFrame :
    StorageInv State.reset
    ∧ (1 ≤ [1#16].length ∧ [1#16, 2#16, 3#16].length ≤ State.reset.cfg.M)
    ∧ (([] : List Sample).length < 1 ∧ State.reset.cfg.M < [1#16, 2#16, 3#16, 4#16].length) :=
  ⟨storageInv_reset, by decide, by decide⟩

/-- Lengths H + 1, H + 3, H + 2M + 2, a foreign header that is compared, and H + 2 and H + 2M, which are well formed. -/
theorem witness_UnpackReadsTheWireFrame :
    unpackFrame Config.testConfiguration [0xA5, 0x5A, 0x01] = .malformed
    ∧ unpackFrame Config.testConfiguration [0xA5, 0x5A, 0x01, 0x00, 0x02] = .malformed
    ∧ unpackFrame Config.testConfiguration [0xA5, 0x5A, 1, 0, 2, 0, 3, 0, 4, 0] = .malformed
    ∧ unpackFrame { Config.testConfiguration with CHECK_HEADER := true } [0xA5, 0x5B, 0x01, 0x00] = .malformed
    ∧ unpackFrame Config.testConfiguration [0xA5, 0x5B, 0x01, 0x00] = .ok [1#16]
    ∧ unpackFrame { Config.testConfiguration with CHECK_HEADER := true } [0xA5, 0x5A, 1, 0, 2, 0, 3, 0]
      = .ok [1#16, 2#16, 3#16] := by decide

theorem witness_UnpackOfPackRoundTrips :
    StorageInv State.reset ∧ 1 ≤ [1#16].length ∧ [1#16].length ≤ State.reset.cfg.M
    ∧ 1 ≤ [1#16, 2#16, 3#16].length ∧ [1#16, 2#16, 3#16].length ≤ State.reset.cfg.M :=
  ⟨storageInv_reset, by decide, by decide, by decide, by decide⟩

theorem witness_PackOfUnpackRoundTrips :
    legal Config.testConfiguration = true
    ∧ unpackFrame Config.testConfiguration [0xA5, 0x5A, 0x00, 0x80] = .ok [0x8000#16]
    ∧ [0xA5#8, 0x5A#8, 0x00#8, 0x80#8].take Config.testConfiguration.H = Config.testConfiguration.HDR := by decide

theorem witness_InboundFrameIsPushedOrDiscarded :
    StorageInv State.reset ∧ unpackFrame State.reset.cfg [0xA5, 0x5A, 0x0A, 0x00] = .ok [10#16]
    ∧ unpackFrame State.reset.cfg [] = .malformed := ⟨storageInv_reset, by decide, by decide⟩

theorem witness_AddCollectsAndSendsFullFrames :
    (StorageInv (withCollected [1#16]) ∧ (withCollected [1#16]).acc.len + 1 < (withCollected [1#16]).cfg.M)
    ∧ (StorageInv (withCollected [1#16, 2#16])
      ∧ (withCollected [1#16, 2#16]).acc.len + 1 = (withCollected [1#16, 2#16]).cfg.M) :=
  ⟨⟨storageInv_of rfl (by decide), by decide⟩, storageInv_of rfl (by decide), rfl⟩

theorem witness_FlushSendsThePartialFrame :
    (StorageInv (withCollected [1#16]) ∧ 0 < (withCollected [1#16]).acc.len)
    ∧ (StorageInv State.reset ∧ State.reset.acc.len = 0) :=
  ⟨⟨storageInv_of rfl (by decide), by decide⟩, storageInv_reset, rfl⟩

theorem witness_AddsSendOneFramePerChunk : StorageInv State.reset ∧ State.reset.acc.len = 0 := ⟨storageInv_reset, rfl⟩

theorem witness_FlushSendsExactlyTheTail :
    StorageInv State.reset ∧ State.reset.acc.len = 0 ∧ 0 < [1#16].length ∧ [1#16, 2#16].length < State.reset.cfg.M :=
  ⟨storageInv_reset, rfl, by decide, by decide⟩

/-- A state that presents a FLUSH of a partial frame. -/
def presentingSend : State :=
  { withCollected [1#16] with turns := [.cons], consStream := [0x00, 0x00, 0x00, 0x70], sends := [.rejected] }

theorem witness_SendAnswersReachNoState : ∃ t, step presentingSend = .next t := ⟨_, rfl⟩

theorem witness_ProducerReadsNothingOfTheConsumer :
    (Instr.rxf [0xA5, 0x5A, 0x01, 0x00]).op = .rxf ∧ (Instr.push []).op = .push
    ∧ ∃ t, exec (.rxf [0xA5, 0x5A, 0x01, 0x00]) (transmitting []) = .next t := ⟨rfl, rfl, _, rfl⟩

theorem witness_ProducerCommutesWithConsumerThatDoesNotPop :
    (Instr.push [1#16]).op = .push ∧ (Instr.step 1001#32 true [2#16]).op.allowedOn .cons = true
    ∧ ¬ PerformsPop (transmitting []) (.step 1001#32 true [2#16])
    ∧ ¬ PerformsPop State.reset (.step 1000#32 true []) ∧ ¬ PerformsPop State.reset (.step 0#32 false [2#16])
    ∧ ∃ t u t' u', exec (.push [1#16]) (transmitting []) = .next t ∧ exec (.step 1001#32 true [2#16]) t = .next u
      ∧ exec (.step 1001#32 true [2#16]) (transmitting []) = .next t' ∧ exec (.push [1#16]) t' = .next u' :=
  ⟨rfl, rfl, fun h => absurd h.1 (by decide), fun h => h.2.2 (by decide),
    fun h => absurd h.2.1 (by decide), _, _, _, _, rfl, rfl, rfl, rfl⟩

theorem witness_IdempotentTransactions :
    (Instr.flush).op = .flush
    ∧ ∃ t u, exec .flush (withCollected [1#16]) = .next t ∧ exec .flush t = .next u := ⟨rfl, _, _, rfl, rfl⟩

theorem witness_StepEntersTransmit :
    State.reset.rc.phase = .receive ∧ State.reset.cfg.T_DWELL ≤ (1000#32 - State.reset.rc.t_entry).toNat := by decide

/-- Not due with push-to-talk, and due without it. -/
theorem witness_StepPlaysInReceive :
    StorageInv State.reset ∧ State.reset.rc.phase = .receive
    ∧ ¬ (State.reset.cfg.T_DWELL ≤ (999#32 - State.reset.rc.t_entry).toNat ∧ true = true)
    ∧ ¬ (State.reset.cfg.T_DWELL ≤ (1000#32 - State.reset.rc.t_entry).toNat ∧ false = true) :=
  ⟨storageInv_reset, rfl, by decide, by decide⟩

/-- With a partial frame and without one. -/
theorem witness_StepEntersReceive :
    StorageInv (transmitting [4#16]) ∧ StorageInv (transmitting []) ∧ (transmitting [4#16]).rc.phase = .transmit
    ∧ (transmitting [4#16]).cfg.T_DWELL ≤ (2000#32 - (transmitting [4#16]).rc.t_entry).toNat :=
  ⟨storageInv_of rfl (by decide), storageInv_of rfl (by decide), rfl, by decide⟩

theorem witness_StepSendsCapturedSamples :
    StorageInv (transmitting [1#16, 2#16]) ∧ (transmitting [1#16, 2#16]).rc.phase = .transmit
    ∧ ¬ ((transmitting [1#16, 2#16]).cfg.T_DWELL ≤ (1999#32 - (transmitting [1#16, 2#16]).rc.t_entry).toNat
      ∧ false = false)
    ∧ [1#16, 2#16, 3#16, 4#16].length ≤ (transmitting [1#16, 2#16]).cfg.K_CAP :=
  ⟨storageInv_of rfl (by decide), rfl, by decide, by decide⟩

/-- `N = K_CAP + 1`; `N = 1` in RECEIVE; `N = K_CAP` on the exit from TRANSMIT. -/
theorem witness_StepRefusesUnexpectedCapture :
    State.reset.cfg.K_CAP < [1#16, 2#16, 3#16, 4#16, 5#16].length
    ∧ ([9#16].length ≤ State.reset.cfg.K_CAP ∧ [9#16] ≠ [] ∧ State.reset.rc.phase = .receive)
    ∧ ([1#16, 2#16, 3#16, 4#16].length ≤ (transmitting []).cfg.K_CAP ∧ (transmitting []).rc.phase = .transmit
      ∧ (transmitting []).cfg.T_DWELL ≤ (2000#32 - (transmitting []).rc.t_entry).toNat) := by decide

/-- No capture; and a capture in TRANSMIT one millisecond before the floor, of `K_CAP` samples. -/
theorem witness_PhaseChangesExactlyWhenDue :
    ([] : List Sample) = []
    ∧ ((transmitting []).rc.phase = .transmit ∧ [1#16, 2#16, 3#16, 4#16].length ≤ (transmitting []).cfg.K_CAP
      ∧ ¬ ((transmitting []).cfg.T_DWELL ≤ (1999#32 - (transmitting []).rc.t_entry).toNat ∧ false = false)) := by decide

/-- A STEP before the floor with push-to-talk released, one after it with push-to-talk held, and the due one. -/
theorem witness_DwellFloorHolds :
    (∀ now ptt c, Instr.step now ptt c ∈ [Instr.step 1999#32 false [], .add 1#16, .step 2000#32 true []] →
      (now - (transmitting []).rc.t_entry).toNat < (transmitting []).cfg.T_DWELL
        ∨ ptt = ((transmitting []).rc.phase == .transmit))
    ∧ (transmitting []).cfg.T_DWELL ≤ (2000#32 - (transmitting []).rc.t_entry).toNat
    ∧ (transmitting []).rc.phase = .transmit ∧ State.reset.rc.phase = .receive := by
  refine ⟨?_, by decide, rfl, rfl⟩
  intro now ptt c h
  simp only [List.mem_cons, Instr.step.injEq, reduceCtorEq, List.not_mem_nil, or_false, false_or] at h
  rcases h with ⟨rfl, rfl, rfl⟩ | ⟨rfl, rfl, rfl⟩
  · exact .inl (by decide)
  · exact .inr (by decide)

theorem witness_AccumulatorIsEmptyInReceive :
    (∃ t, initWith Config.testConfiguration 0#32 [] [] = .next t)
    ∧ (State.reset.rc.phase = .receive → State.reset.acc.len = 0)
    ∧ (∀ i ∈ [Instr.step 5#32 false [], .rxf [], .pop 1], i.op ≠ .add ∧ i.op ≠ .flush)
    ∧ State.reset.cfg.T_DWELL ≤ (1000#32 - State.reset.rc.t_entry).toNat := ⟨⟨_, rfl⟩, fun _ => rfl, by decide, by decide⟩

theorem witness_UtteranceIsSentWhole :
    StorageInv (transmitting []) ∧ (transmitting []).rc.phase = .transmit ∧ (transmitting []).acc.len = 0
    ∧ (∀ x ∈ ([(1999#32, false, [1#16, 2#16, 3#16, 4#16]), (2000#32, true, [5#16])] : List (Word32 × Bool × List Sample)),
      x.2.2.length ≤ (transmitting []).cfg.K_CAP
        ∧ ¬ ((transmitting []).cfg.T_DWELL ≤ (x.1 - (transmitting []).rc.t_entry).toNat ∧ x.2.1 = false))
    ∧ (transmitting []).cfg.T_DWELL ≤ (2000#32 - (transmitting []).rc.t_entry).toNat :=
  ⟨storageInv_of rfl (by decide), rfl, rfl, by decide, by decide⟩

/-- A TRANSMIT state whose ring is half full and wraps. -/
def transmittingOverAudio : State :=
  { transmitting [4#16] with rb := { buf := [1#16, 2#16, 3#16, 4#16], rd := 3, wr := 1, cnt := 2 } }

/-- A frame of M samples that overflows the ring and is longer than K_POP, and two iterations that stay in RECEIVE. -/
theorem witness_FrameReceivedInTransmitIsPlayed :
    StorageInv transmittingOverAudio ∧ transmittingOverAudio.rc.phase = .transmit
    ∧ 1 ≤ [10#16, 20#16, 30#16].length ∧ [10#16, 20#16, 30#16].length ≤ transmittingOverAudio.cfg.M
    ∧ transmittingOverAudio.cfg.T_DWELL ≤ (2000#32 - transmittingOverAudio.rc.t_entry).toNat
    ∧ ∀ x ∈ ([(2999#32, true), (3000#32, false)] : List (Word32 × Bool)),
      ¬ (transmittingOverAudio.cfg.T_DWELL ≤ (x.1 - 2000#32).toNat ∧ x.2 = true) :=
  ⟨storageInv_of rfl (by decide), rfl, by decide, by decide, by decide, by
    simp only [List.forall_mem_cons, List.not_mem_nil, false_implies, implies_true, and_true]
    exact ⟨by decide, fun h => absurd h.2 (by decide)⟩⟩

end Sys2Proof.Tests
end

/-! ## Construction, and what every step keeps (00_scope.md) -/

namespace Sys2Proof.Machine

/-! ### Construction (R7, R220) -/

theorem initWith_illegal {cfg : Config} (h : ¬ legal cfg = true) (now0 : Word32) (buf data : List Sample) :
    initWith cfg now0 buf data = .refused .configInvalid := if_neg h

/-- Settles O13: the check that construction makes is R7, condition by condition. -/
theorem constructionIsCheckedByR7 : Obligations.ConstructionIsCheckedByR7 := by
  unfold Obligations.ConstructionIsCheckedByR7
  intro cfg now0 buf data ok
  exact ⟨fun h => ⟨_, initWith_legal ((legal_iff cfg).2 h) now0 buf data⟩,
    fun h => initWith_illegal (mt (legal_iff cfg).1 h) now0 buf data⟩

/-- A core that is built over arrays of the right sizes has its storage in order (R22 to R26, R29, R30). -/
theorem StorageInv.constructed {cfg : Config} (h : legal cfg = true) (now0 : Word32) {buf data : List Sample}
    (hb : buf.length = cfg.C) (hd : data.length = cfg.M) : StorageInv (State.constructed cfg now0 buf data) := by
  obtain ⟨hC, ⟨hM, -⟩, -⟩ := (legal_iff cfg).1 h
  exact
    { legalConfig := h
      bufSize := hb
      rdRange := hC
      wrRange := hC
      cntRange := Nat.zero_le _
      cursors := (Nat.zero_mod _).symm
      dataSize := hd
      lenRange := hM }

theorem collaboratorsFollowPhase_constructed (cfg : Config) (now0 : Word32) (buf data : List Sample) :
    CollaboratorsFollowPhase (State.constructed cfg now0 buf data) := ⟨rfl, rfl, rfl⟩

/-- A core just built has sent no frame (R220). -/
theorem sentFramesLegal_constructed (cfg : Config) (now0 : Word32) (buf data : List Sample) :
    SentFramesLegal (State.constructed cfg now0 buf data) := by
  intro f hf
  simp [State.constructed] at hf

/-- Settles O15: the test configuration is legal, and the reset state is one that is constructed from it. -/
theorem resetIsConstructedAndInvariant : Obligations.ResetIsConstructedAndInvariant := by
  unfold Obligations.ResetIsConstructedAndInvariant
  have hl : legal Config.testConfiguration = true := by decide
  exact ⟨initWith_legal hl _ _ _, StorageInv.constructed hl _ List.length_replicate List.length_replicate,
    collaboratorsFollowPhase_constructed _ _ _ _, sentFramesLegal_constructed _ _ _ _⟩

/-! ### The configuration stays and the traces only grow (R10, R35, R190, R231) -/

/-- From `s` to `t` the configuration stays and every trace is only appended to. -/
structure Extends (s t : State) : Prop where
  cfg : t.cfg = s.cfg
  out : s.out <+: t.out
  results : s.results <+: t.results
  refusals : s.refusals <+: t.refusals
  absorbed : s.absorbed <+: t.absorbed

theorem Extends.refl (s : State) : Extends s s :=
  ⟨rfl, List.prefix_rfl, List.prefix_rfl, List.prefix_rfl, List.prefix_rfl⟩

theorem Extends.trans {s t u : State} (h : Extends s t) (k : Extends t u) : Extends s u :=
  ⟨k.cfg.trans h.cfg, h.out.trans k.out, h.results.trans k.results, h.refusals.trans k.refusals,
    h.absorbed.trans k.absorbed⟩

/-- `Extends` reads only the configuration and the traces. -/
theorem Extends.of_eq {s t : State} (hc : t.cfg = s.cfg) (ho : t.out = s.out) (hr : t.results = s.results)
    (hf : t.refusals = s.refusals) (ha : t.absorbed = s.absorbed) : Extends s t :=
  ⟨hc, ho ▸ List.prefix_rfl, hr ▸ List.prefix_rfl, hf ▸ List.prefix_rfl, ha ▸ List.prefix_rfl⟩

theorem Extends.emit (e : Event) (s : State) : Extends s (s.emit e) := by constructor <;> simp

theorem Extends.absorb (c : Condition) (s : State) : Extends s (s.absorb c) := by constructor <;> simp

theorem Extends.respond (p : Port) (r : Result) (s : State) : Extends s (s.respond p r) := by constructor <;> simp

theorem Extends.refuse (p : Port) (r : RefusalReason) (s : State) : Extends s (s.refuse p r) := by
  constructor <;> simp

theorem Extends.taken (p : Port) (later : List Port) (T : List Byte) (s : State) : Extends s (s.taken p later T) := by
  constructor <;> simp

theorem Extends.pushSamples (l : List Sample) (s : State) : Extends s (s.pushSamples l) := by
  rw [State.pushSamples_update]
  constructor <;> simp

theorem Extends.popSamples (n : Nat) (s : State) : Extends s (s.popSamples n) := by
  rw [State.popSamples_eq]
  constructor <;> simp

theorem Extends.sendFrame (f : List Byte) (s : State) : Extends s (s.sendFrame f) := by
  rw [State.sendFrame_eq]
  constructor <;> simp

theorem Extends.addSample (x : Sample) (s : State) : Extends s (s.addSample x) := by
  have hset (a : Accumulator) : Extends s { s with acc := a } := Extends.of_eq rfl rfl rfl rfl rfl
  unfold State.addSample
  dsimp only
  split
  · exact (hset _).trans (Extends.sendFrame _ _)
  · exact hset _

theorem Extends.addSamples (l : List Sample) : ∀ s : State, Extends s (s.addSamples l) := by
  induction l with
  | nil => exact Extends.refl
  | cons x rest ih => exact fun s => (Extends.addSample x s).trans (ih _)

theorem Extends.flushAccumulator (s : State) : Extends s s.flushAccumulator := by
  by_cases h : s.acc.len = 0
  · rw [State.flushAccumulator_none h]
    exact Extends.refl s
  · rw [State.flushAccumulator_some (Nat.pos_of_ne_zero h)]
    constructor <;> simp

theorem Extends.enterTransmit (now : Word32) (s : State) : Extends s (s.enterTransmit now) := by
  constructor <;> simp

theorem Extends.enterReceive (now : Word32) (s : State) : Extends s (s.enterReceive now) := by
  have hflush := Extends.flushAccumulator s
  have hemit : Extends s.flushAccumulator
      (((s.flushAccumulator.emit .capStop).emit (.snkStart s.cfg.RATE)).emit (.ind false)) :=
    ((Extends.emit _ _).trans (Extends.emit _ _)).trans (Extends.emit _ _)
  exact (hflush.trans hemit).trans (Extends.of_eq rfl rfl rfl rfl rfl)

theorem Extends.receiveBody (s : State) : Extends s s.receiveBody :=
  (Extends.popSamples _ s).trans (Extends.emit _ _)

theorem Extends.transmitBody (captured : List Sample) (s : State) : Extends s (s.transmitBody captured) :=
  (Extends.emit _ s).trans (Extends.addSamples captured _)

/-- Every transaction keeps the configuration and only appends to the traces. -/
theorem Extends.of_effect {s t : State} {i : Instr} (h : Effect s i t) : Extends s t := by
  cases h with
  | refused r => exact Extends.refuse _ _ s
  | push l => exact (Extends.pushSamples l s).trans (Extends.respond _ _ _)
  | pop n => exact (Extends.popSamples n s).trans (Extends.respond _ _ _)
  | pack p l => exact Extends.respond _ _ s
  | unpack p b => exact Extends.respond _ _ s
  | rxfDiscard b => exact (Extends.absorb _ s).trans (Extends.respond _ _ _)
  | rxfPush b l => exact (Extends.pushSamples l s).trans (Extends.respond _ _ _)
  | add x => exact (Extends.addSample x s).trans (Extends.respond _ _ _)
  | flush => exact (Extends.flushAccumulator s).trans (Extends.respond _ _ _)
  | enterTransmit now => exact (Extends.enterTransmit now s).trans (Extends.respond _ _ _)
  | receiveBody now ptt => exact (Extends.receiveBody s).trans (Extends.respond _ _ _)
  | enterReceive now => exact (Extends.enterReceive now s).trans (Extends.respond _ _ _)
  | transmitBody now ptt c => exact (Extends.transmitBody c s).trans (Extends.respond _ _ _)

theorem Extends.of_step {s t : State} (h : step s = .next t) : Extends s t := by
  rcases step_cases h with rfl | ⟨p, later, i, rest, -, -, hx⟩ | ⟨p, later, r, -, -, rfl⟩
  · exact Extends.refl _
  · exact (Extends.taken p later rest s).trans (.of_effect (exec_next_effect hx))
  · exact (Extends.taken p later _ s).trans (Extends.refuse p r _)

/-- Settles O19: every shared operation only appends, so every effect of a transaction does, and so does a step. -/
theorem stepKeepsConfigAndExtendsTraces : Obligations.StepKeepsConfigAndExtendsTraces := by
  unfold Obligations.StepKeepsConfigAndExtendsTraces
  intro s t h
  obtain ⟨hcfg, hout, hresults, hrefusals, habsorbed⟩ := Extends.of_step h
  exact ⟨hcfg, hout, hresults, hrefusals, habsorbed⟩

/-! ### Every frame sent is a PACK of 1 to M samples (R82, R120, R142, R143) -/

/-- The frames among these events are all built by PACK, from `1..M` samples. -/
def FramesPacked (cfg : Config) (events : List Event) : Prop :=
  ∀ f, Event.txf f ∈ events → ∃ l : List Sample, 1 ≤ l.length ∧ l.length ≤ cfg.M ∧ f = buildFrame cfg l

theorem framesPacked_nil (cfg : Config) : FramesPacked cfg [] := fun _ hf => nomatch hf

theorem framesPacked_append {cfg : Config} {a b : List Event} (ha : FramesPacked cfg a) (hb : FramesPacked cfg b) :
    FramesPacked cfg (a ++ b) :=
  fun f hf => (List.mem_append.1 hf).elim (ha f) (hb f)

theorem framesPacked_fullFrames {cfg : Config} (hM : 1 ≤ cfg.M) (l : List Sample) :
    FramesPacked cfg (fullFrames cfg l) := by
  intro f hf
  obtain ⟨j, hj, hjf⟩ := List.mem_map.1 hf
  have hroom : (j + 1) * cfg.M ≤ l.length := (Nat.le_div_iff_mul_le hM).1 (List.mem_range.1 hj)
  have hchunk : ((l.drop (j * cfg.M)).take cfg.M).length = cfg.M := by
    rw [Nat.add_mul, Nat.one_mul] at hroom
    simp only [List.length_take, List.length_drop]
    omega
  exact ⟨_, hM.trans hchunk.ge, hchunk.le, (Event.txf.inj hjf).symm⟩

theorem framesPacked_flushFrames {s : State} (ha : AccOk s.cfg.M s.acc) : FramesPacked s.cfg (flushFrames s) := by
  intro f hf
  have hlen : s.acc.collected.length = s.acc.len :=
    Accumulator.collected_length (ha.dataSize ▸ ha.lenRange.le)
  unfold flushFrames at hf
  split at hf
  · rename_i hpos
    exact ⟨_, hlen ▸ hpos, hlen ▸ ha.lenRange.le, Event.txf.inj (List.mem_singleton.1 hf)⟩
  · cases hf

/-- What a transaction adds to the trace, as far as frames go: only frames of PACK. -/
theorem Effect.appends_framesPacked {s t : State} {i : Instr} (h : Effect s i t) (ha : AccOk s.cfg.M s.acc) :
    ∃ events, t.out = s.out ++ events ∧ FramesPacked s.cfg events := by
  have hM : 1 ≤ s.cfg.M := Nat.one_le_of_lt ha.lenRange
  cases h with
  | refused r => exact ⟨[], by simp, framesPacked_nil s.cfg⟩
  | push l => exact ⟨[], by simp, framesPacked_nil s.cfg⟩
  | pop n => exact ⟨[], by simp, framesPacked_nil s.cfg⟩
  | pack p l => exact ⟨[], by simp, framesPacked_nil s.cfg⟩
  | unpack p b => exact ⟨[], by simp, framesPacked_nil s.cfg⟩
  | rxfDiscard b => exact ⟨[], by simp, framesPacked_nil s.cfg⟩
  | rxfPush b l => exact ⟨[], by simp, framesPacked_nil s.cfg⟩
  | add x => exact ⟨_, (State.addSamples_spec [x] ha).1, framesPacked_fullFrames hM _⟩
  | flush => exact ⟨_, s.flushAccumulator_out, framesPacked_flushFrames ha⟩
  | enterTransmit now => exact ⟨_, s.enterTransmit_out now, fun f hf => by simp at hf⟩
  | receiveBody now ptt => exact ⟨_, s.receiveBody_out, fun f hf => by simp at hf⟩
  | enterReceive now =>
    refine ⟨flushFrames s ++ [.capStop, .snkStart s.cfg.RATE, .ind false], ?_,
      framesPacked_append (framesPacked_flushFrames ha) fun f hf => by simp at hf⟩
    simp [State.flushAccumulator_out]
  | transmitBody now ptt c =>
    have hout := (State.addSamples_spec c (s := s.emit (.capRd c.length)) ha).1
    refine ⟨.capRd c.length :: fullFrames s.cfg (s.acc.collected ++ c), ?_,
      framesPacked_append (a := [.capRd c.length]) (fun f hf => by simp at hf) (framesPacked_fullFrames hM _)⟩
    simpa [State.transmitBody] using hout

theorem step_appends_framesPacked {s t : State} (ha : AccOk s.cfg.M s.acc) (h : step s = .next t) :
    ∃ events, t.out = s.out ++ events ∧ FramesPacked s.cfg events := by
  rcases step_cases h with rfl | ⟨p, later, i, rest, -, -, hx⟩ | ⟨p, later, r, -, -, rfl⟩
  · exact ⟨[], by simp, framesPacked_nil _⟩
  · simpa using (exec_next_effect hx).appends_framesPacked (by simpa using ha)
  · exact ⟨[], by simp [State.refusedAtDecode], framesPacked_nil s.cfg⟩

theorem buildFrame_length {cfg : Config} (h : cfg.HDR.length = cfg.H) (l : List Sample) :
    (buildFrame cfg l).length = cfg.H + 2 * l.length := by
  simp [buildFrame, h]

theorem buildFrame_take_header {cfg : Config} (h : cfg.HDR.length = cfg.H) (l : List Sample) :
    (buildFrame cfg l).take cfg.H = cfg.HDR := by
  simp [buildFrame, ← h]

/-- Settles O18: the frames a step adds are PACKs of `1..M` samples, and R7 makes room for those in the payload. -/
theorem everySentFrameIsLegal : Obligations.EverySentFrameIsLegal := by
  unfold Obligations.EverySentFrameIsLegal
  intro s t hinv hsent hstep f hf
  obtain ⟨-, -, hheader, hfits, -⟩ := (legal_iff s.cfg).1 hinv.legalConfig
  obtain ⟨events, hout, hpacked⟩ := step_appends_framesPacked hinv.accumulator hstep
  rw [(Extends.of_step hstep).cfg]
  rw [hout] at hf
  rcases List.mem_append.1 hf with hold | hnew
  · exact hsent f hold
  · obtain ⟨l, hpos, hle, rfl⟩ := hpacked f hnew
    have hlen := buildFrame_length hheader l
    exact ⟨buildFrame_take_header hheader l, by omega, l.length, hpos, hle, hlen⟩

end Sys2Proof.Machine

/-! ## What the state keeps, and who writes it (10_state.md) -/

namespace Sys2Proof.Machine

/-! ### The storage invariant (R22 to R26, R29, R30) -/

theorem StorageInv.transmitBody {s : State} (h : StorageInv s) (c : List Sample) : StorageInv (s.transmitBody c) :=
  h.of_parts (by simp) (by simpa using h.ring) (AccOk.addSamples (s := s.emit _) c h.accumulator)

/-- Every transaction keeps the storage in order: the ring's operations and the accumulator's each keep their own part,
and nothing else writes either. -/
theorem StorageInv.of_effect {s t : State} {i : Instr} (h : StorageInv s) (he : Effect s i t) : StorageInv t := by
  cases he with
  | refused r => exact h.congr rfl rfl rfl
  | push l => exact (h.pushSamples l).congr rfl rfl rfl
  | pop n => exact (h.popSamples n).congr rfl rfl rfl
  | pack p l => exact h.congr rfl rfl rfl
  | unpack p b => exact h.congr rfl rfl rfl
  | rxfDiscard b => exact h.congr rfl rfl rfl
  | rxfPush b l => exact (h.pushSamples l).congr rfl rfl rfl
  | add x => exact h.of_parts (by simp) (by simpa using h.ring) (h.accumulator.addSample x)
  | flush => exact h.of_parts (by simp) (by simpa using h.ring) h.accumulator.flushAccumulator
  | enterTransmit now => exact h.congr rfl rfl rfl
  | receiveBody now ptt => exact (h.popSamples _).congr rfl rfl rfl
  | enterReceive now => exact h.of_parts (by simp) (by simpa using h.ring) h.accumulator.flushAccumulator
  | transmitBody now ptt c => exact (h.transmitBody c).congr rfl rfl rfl

theorem StorageInv.taken {s : State} (h : StorageInv s) (p : Port) (later : List Port) (T : List Byte) :
    StorageInv (s.taken p later T) :=
  h.congr (by simp) (by simp) (by simp)

theorem StorageInv.of_step {s t : State} (h : StorageInv s) (hstep : step s = .next t) : StorageInv t := by
  rcases step_cases hstep with rfl | ⟨p, later, i, rest, -, -, hx⟩ | ⟨p, later, r, -, -, rfl⟩
  · exact h
  · exact (h.taken p later rest).of_effect (exec_next_effect hx)
  · exact (h.taken p later _).congr rfl rfl rfl

/-- With a full buffer the cursors have come round to each other (R26). -/
theorem StorageInv.wr_eq_rd_of_full {s : State} (h : StorageInv s) (hfull : s.rb.cnt = s.cfg.C) : s.rb.wr = s.rb.rd := by
  rw [h.cursors, hfull, Nat.add_mod_right, Nat.mod_eq_of_lt h.rdRange]

/-- Settles O16: construction puts the storage in order, and every effect of a transaction keeps its two parts, the ring
and the accumulator. -/
theorem storageInvariantHoldsAfterEveryStep : Obligations.StorageInvariantHoldsAfterEveryStep := by
  unfold Obligations.StorageInvariantHoldsAfterEveryStep
  refine ⟨fun cfg now0 buf data t hb hd ht => ?_, fun s t => StorageInv.of_step, fun s => StorageInv.wr_eq_rd_of_full⟩
  obtain ⟨hlegal, rfl⟩ := initWith_next ht
  exact StorageInv.constructed hlegal now0 hb hd

/-! ### Sink, capture and indicator (R37) -/

/-- The calls that start or stop nothing: a send, a sink write, a capture read (R190). -/
def Event.isTraffic : Event → Bool
  | .txf _ => true
  | .snkWr _ => true
  | .capRd _ => true
  | _ => false

/-- Traffic leaves the collaborators as they are. -/
theorem collaborators_append_traffic (out : List Event) {events : List Event} (h : ∀ e ∈ events, e.isTraffic = true) :
    sinkStarted (out ++ events) = sinkStarted out ∧ captureStarted (out ++ events) = captureStarted out
      ∧ indicatorOn (out ++ events) = indicatorOn out := by
  induction events generalizing out with
  | nil => simp
  | cons e rest ih =>
    obtain ⟨he, hrest⟩ := List.forall_mem_cons.1 h
    have hone : sinkStarted (out ++ [e]) = sinkStarted out ∧ captureStarted (out ++ [e]) = captureStarted out
        ∧ indicatorOn (out ++ [e]) = indicatorOn out := by
      cases e <;> simp_all [Event.isTraffic, sinkStarted, captureStarted, indicatorOn]
    simpa [hone] using ih (out ++ [e]) hrest

/-- The accumulator's operations emit frames and nothing else (R142, R143). -/
def EmitsFrames (s t : State) : Prop := ∃ frames : List (List Byte), t.out = s.out ++ frames.map .txf

theorem EmitsFrames.addSample (x : Sample) (s : State) : EmitsFrames s (s.addSample x) := by
  by_cases hf : s.acc.len + 1 = s.cfg.M
  · exact ⟨[buildFrame s.cfg ((s.acc.data.set s.acc.len x).take s.cfg.M)], by simp [State.addSample, hf, State.sendFrame_eq]⟩
  · exact ⟨[], by simp [State.addSample_partial x hf]⟩

theorem EmitsFrames.addSamples (l : List Sample) : ∀ s : State, EmitsFrames s (s.addSamples l) := by
  induction l with
  | nil => exact fun s => ⟨[], by simp [State.addSamples]⟩
  | cons x rest ih =>
    intro s
    obtain ⟨f, hf⟩ := EmitsFrames.addSample x s
    obtain ⟨g, hg⟩ := ih (s.addSample x)
    exact ⟨f ++ g, by simp [State.addSamples, hg, hf]⟩

theorem EmitsFrames.flushAccumulator (s : State) : EmitsFrames s s.flushAccumulator := by
  rw [EmitsFrames, State.flushAccumulator_out, flushFrames]
  split
  · exact ⟨[_], rfl⟩
  · exact ⟨[], rfl⟩

theorem CollaboratorsFollowPhase.append_traffic {s t : State} (h : CollaboratorsFollowPhase s) (hrc : t.rc = s.rc)
    {events : List Event} (hout : t.out = s.out ++ events) (ht : ∀ e ∈ events, e.isTraffic = true) :
    CollaboratorsFollowPhase t := by
  obtain ⟨hsink, hcap, hind⟩ := collaborators_append_traffic s.out ht
  rwa [CollaboratorsFollowPhase, hout, hrc, hsink, hcap, hind]

/-- What R37 says reads only the phase and the trace. -/
theorem CollaboratorsFollowPhase.congr {s t : State} (h : CollaboratorsFollowPhase s) (hrc : t.rc = s.rc)
    (hout : t.out = s.out) : CollaboratorsFollowPhase t :=
  h.append_traffic hrc (events := []) (by simpa using hout) (by simp)

theorem CollaboratorsFollowPhase.emitsFrames {s t : State} (h : CollaboratorsFollowPhase s) (hrc : t.rc = s.rc)
    (he : EmitsFrames s t) : CollaboratorsFollowPhase t := by
  obtain ⟨frames, hout⟩ := he
  exact h.append_traffic hrc hout (by simp [Event.isTraffic])

theorem CollaboratorsFollowPhase.emit {s : State} (h : CollaboratorsFollowPhase s) {e : Event}
    (he : e.isTraffic = true) : CollaboratorsFollowPhase (s.emit e) :=
  h.append_traffic rfl rfl (by simpa using he)

/-- Entering TRANSMIT switches all three, whatever they were (R163). -/
theorem collaboratorsFollowPhase_enterTransmit (now : Word32) (s : State) :
    CollaboratorsFollowPhase (s.enterTransmit now) := by
  simp [CollaboratorsFollowPhase, sinkStarted, captureStarted, indicatorOn]

/-- Entering RECEIVE switches all three back, after the exit flush (R165). -/
theorem collaboratorsFollowPhase_enterReceive (now : Word32) (s : State) :
    CollaboratorsFollowPhase (s.enterReceive now) := by
  simp [CollaboratorsFollowPhase, sinkStarted, captureStarted, indicatorOn]

/-- A transaction either enters a phase and switches all three, or keeps the phase and emits only traffic. -/
theorem CollaboratorsFollowPhase.of_effect {s t : State} {i : Instr} (h : CollaboratorsFollowPhase s)
    (he : Effect s i t) : CollaboratorsFollowPhase t := by
  cases he with
  | refused r => exact h.congr rfl rfl
  | push l => exact h.congr (by simp) (by simp)
  | pop n => exact h.congr (by simp) (by simp)
  | pack p l => exact h.congr rfl rfl
  | unpack p b => exact h.congr rfl rfl
  | rxfDiscard b => exact h.congr rfl rfl
  | rxfPush b l => exact h.congr (by simp) (by simp)
  | add x => exact h.emitsFrames (by simp) (EmitsFrames.addSample x s)
  | flush => exact h.emitsFrames (by simp) (EmitsFrames.flushAccumulator s)
  | enterTransmit now => exact (collaboratorsFollowPhase_enterTransmit now s).congr rfl rfl
  | receiveBody now ptt =>
    have hpop : CollaboratorsFollowPhase (s.popSamples s.cfg.K_POP) := h.congr (by simp) (by simp)
    exact (hpop.emit rfl).congr rfl rfl
  | enterReceive now => exact (collaboratorsFollowPhase_enterReceive now s).congr rfl rfl
  | transmitBody now ptt c =>
    exact (h.emit (e := .capRd c.length) rfl).emitsFrames (by simp) (EmitsFrames.addSamples c _)

theorem CollaboratorsFollowPhase.of_step {s t : State} (h : CollaboratorsFollowPhase s) (hstep : step s = .next t) :
    CollaboratorsFollowPhase t := by
  rcases step_cases hstep with rfl | ⟨p, later, i, rest, -, -, hx⟩ | ⟨p, later, r, -, -, rfl⟩
  · exact h
  · have htaken : CollaboratorsFollowPhase (s.taken p later rest) := h.congr (by simp) (by simp)
    exact htaken.of_effect (exec_next_effect hx)
  · exact h.congr (by simp [State.refusedAtDecode]) (by simp [State.refusedAtDecode])

/-- Settles O17: construction and the two transitions set all three calls as the phase asks; whatever else a transaction
emits starts and stops nothing. -/
theorem collaboratorsFollowThePhase : Obligations.CollaboratorsFollowThePhase := by
  unfold Obligations.CollaboratorsFollowThePhase
  refine ⟨fun cfg now0 buf data t ht => ?_, fun s t => CollaboratorsFollowPhase.of_step⟩
  obtain ⟨-, rfl⟩ := initWith_next ht
  exact collaboratorsFollowPhase_constructed cfg now0 buf data

/-! ### Delivery in push order (R27, R60) -/

/-- What one transaction hands out of the ring and then leaves in it: the last `C` samples of what was there and what it
brought. -/
def Delivers (s : State) (i : Instr) (t : State) : Prop :=
  (handedOut s t).take s.rb.cnt ++ t.seq = lastSamples s.cfg.C (s.seq ++ broughtSamples s.cfg i)

theorem StorageInv.lastSamples_seq {s : State} (h : StorageInv s) : lastSamples s.cfg.C s.seq = s.seq :=
  lastSamples_append_of_le (by simpa using h.cntRange)

/-- A transaction that brings nothing, leaves the ring alone and hands nothing out. -/
theorem Delivers.of_idle {s t : State} {i : Instr} (h : StorageInv s) (hb : broughtSamples s.cfg i = [])
    (hcfg : t.cfg = s.cfg) (hrb : t.rb = s.rb) (hnone : handedOut s t = []) : Delivers s i t := by
  have hseq : t.seq = s.seq := by simp [State.seq, hcfg, hrb]
  simp [Delivers, hnone, hseq, hb, h.lastSamples_seq]

/-- A transaction that returns nothing after operations that send frames hands nothing out. -/
theorem EmitsFrames.handedOut_respond {s t : State} (h : EmitsFrames s t) (hr : t.results = s.results) (p : Port) :
    handedOut s (t.respond p .nothing) = [] := by
  obtain ⟨frames, hout⟩ := h
  simp [handedOut, hr, hout, Result.returned, Event.written]

/-- PUSH, and RXF of a well-formed frame, hand out nothing and append what they bring (R102, R140). -/
theorem Delivers.pushed {s : State} {i : Instr} {l : List Sample} (h : StorageInv s)
    (hb : broughtSamples s.cfg i = l) : Delivers s i ((s.pushSamples l).respond .prod .nothing) := by
  have hnone : handedOut s ((s.pushSamples l).respond .prod .nothing) = [] := by simp [handedOut, Result.returned]
  have hseq : ((s.pushSamples l).respond .prod .nothing).seq = lastSamples s.cfg.C (s.seq ++ l) := by
    rw [State.pushSamples_eq h]
    exact (Ring.push_spec h.posC l 0 h.ring).2.1
  rw [Delivers, hnone, hseq, hb, List.take_nil, List.nil_append]

/-- What a POP returns, without the silence: the oldest samples it takes (R101). -/
theorem State.popped_take_cnt (s : State) (n : Nat) : (s.popped n).take s.rb.cnt = s.seq.take (min s.rb.cnt n) := by
  have hsilence : min (s.rb.cnt - min s.rb.cnt n) (n - min s.rb.cnt n) = 0 := by omega
  simp [State.popped_eq, List.take_append, List.take_take, hsilence]

theorem State.popSamples_seq (s : State) (n : Nat) : (s.popSamples n).seq = s.seq.drop (min s.rb.cnt n) := by
  rw [State.popSamples_eq]
  exact Ring.remove_seq _ _ _

/-- A transaction that pops `n` samples, to its agent or to the sink: the oldest leave, the others stay (R103, R164). -/
theorem Delivers.popped {s t : State} {i : Instr} (h : StorageInv s) (hb : broughtSamples s.cfg i = []) (n : Nat)
    (hseq : t.seq = (s.popSamples n).seq) (hout : handedOut s t = s.popped n) : Delivers s i t := by
  rw [Delivers, hout, hseq, s.popped_take_cnt, s.popSamples_seq, List.take_append_drop, hb, List.append_nil,
    h.lastSamples_seq]

/-- Nothing but PUSH and RXF brings samples. -/
theorem broughtSamples_eq_nil {i : Instr} (cfg : Config) (hpush : i.op ≠ .push) (hrxf : i.op ≠ .rxf) :
    broughtSamples cfg i = [] := by
  cases i with
  | push l => exact absurd rfl hpush
  | rxf b => exact absurd rfl hrxf
  | _ => rfl

theorem Delivers.of_effect {s t : State} {i : Instr} (h : StorageInv s) (he : Effect s i t) : Delivers s i t := by
  cases he with
  | refused _ r hop =>
    have hb : broughtSamples s.cfg i = [] :=
      broughtSamples_eq_nil _ (by rintro he; simp [he] at hop) (by rintro he; simp [he] at hop)
    exact .of_idle h hb rfl rfl (by simp [handedOut])
  | push l => exact .pushed h rfl
  | pop n => exact .popped h rfl n rfl (by simp [handedOut, Result.returned])
  | pack p l => exact .of_idle h rfl rfl rfl (by simp [handedOut, Result.returned])
  | unpack p b => exact .of_idle h rfl rfl rfl (by simp [handedOut, Result.returned])
  | rxfDiscard b hm => exact .of_idle h (by simp [broughtSamples, hm]) rfl rfl (by simp [handedOut, Result.returned])
  | rxfPush b l hl => exact .pushed h (by simp [broughtSamples, hl])
  | add x =>
    exact .of_idle h rfl (by simp) (by simp) ((EmitsFrames.addSample x s).handedOut_respond (by simp) .cons)
  | flush =>
    exact .of_idle h rfl (by simp) (by simp) ((EmitsFrames.flushAccumulator s).handedOut_respond (by simp) .cons)
  | enterTransmit now => exact .of_idle h rfl rfl rfl (by simp [handedOut, Result.returned, Event.written])
  | receiveBody now ptt => exact .popped h rfl s.cfg.K_POP rfl (by simp [handedOut, Result.returned, Event.written])
  | enterReceive now =>
    obtain ⟨frames, hout⟩ := EmitsFrames.flushAccumulator s
    exact .of_idle h rfl (by simp) (by simp) (by simp [handedOut, hout, Result.returned, Event.written])
  | transmitBody now ptt c =>
    obtain ⟨frames, hout⟩ := EmitsFrames.addSamples c (s.emit (.capRd c.length))
    exact .of_idle h rfl (by simp) (by simp)
      (by simp [State.transmitBody, handedOut, hout, Result.returned, Event.written])

/-- A run performs its first transaction, and then the rest from there (R60). -/
theorem execAll_cons {i : Instr} {s u : State} (hu : exec i s = .next u) (rest : List Instr) :
    execAll (i :: rest) s = execAll rest u := by
  simp only [execAll, hu]

theorem deliveredSamples_cons {i : Instr} {s u : State} (hu : exec i s = .next u) (rest : List Instr) :
    deliveredSamples (i :: rest) s = (handedOut s u).take s.rb.cnt ++ deliveredSamples rest u := by
  simp only [deliveredSamples, hu]

theorem pushedSamples_cons (cfg : Config) (i : Instr) (rest : List Instr) :
    pushedSamples cfg (i :: rest) = broughtSamples cfg i ++ pushedSamples cfg rest := rfl

/-- What a transaction hands out and leaves is in order what was there and what it brought. -/
theorem Delivers.sublist {s t : State} {i : Instr} (h : Delivers s i t) :
    ((handedOut s t).take s.rb.cnt ++ t.seq).Sublist (s.seq ++ broughtSamples s.cfg i) := by
  rw [h]
  exact List.drop_sublist _ _

/-- While everything fits, it is all of that (R101, R102). -/
theorem Delivers.eq_of_fits {s t : State} {i : Instr} (h : Delivers s i t)
    (hfits : s.rb.cnt + (broughtSamples s.cfg i).length ≤ s.cfg.C) :
    (handedOut s t).take s.rb.cnt ++ t.seq = s.seq ++ broughtSamples s.cfg i :=
  h.trans (lastSamples_append_of_le (by simpa using hfits))

/-- Settles O26, by induction on the run: each transaction hands out of the ring and leaves in it the last `C` samples of
what was there and what it brought, and that is all of it while it fits. -/
theorem deliveryIsInPushOrder : Obligations.DeliveryIsInPushOrder := by
  unfold Obligations.DeliveryIsInPushOrder
  intro run
  induction run with
  | nil => exact fun s _ => ⟨s, rfl, by simp [deliveredSamples, pushedSamples], by simp [deliveredSamples, pushedSamples]⟩
  | cons i rest ih =>
    intro s h
    obtain ⟨u, hu, he⟩ := exec_effect i s
    obtain ⟨t, ht, hsub, hall⟩ := ih u (h.of_effect he)
    have hone : Delivers s i u := .of_effect h he
    rw [(Extends.of_effect he).cfg] at hsub hall
    rw [execAll_cons hu, deliveredSamples_cons hu, pushedSamples_cons, ← List.append_assoc s.seq, List.length_append]
    refine ⟨t, ht, ?_, fun hfits => ?_⟩
    · have hrest := hsub.append_left ((handedOut s u).take s.rb.cnt)
      rw [← List.append_assoc _ u.seq] at hrest
      rw [List.append_assoc]
      exact hrest.trans (hone.sublist.append_right _)
    · have hkept := hone.eq_of_fits (by omega)
      have hcnt := congrArg List.length hkept
      simp only [List.length_append, State.seq_length] at hcnt
      rw [List.append_assoc, hall (by omega), ← List.append_assoc, hkept]

/-! ### The accumulator in RECEIVE (R169) -/

/-- A property that every transaction of a run keeps holds after the run. -/
theorem execAll_keeps {P : State → Prop} {run : List Instr}
    (hkeep : ∀ i ∈ run, ∀ s t : State, P s → Effect s i t → P t) :
    ∀ {s : State}, P s → ∃ t, execAll run s = .next t ∧ P t := by
  induction run with
  | nil => exact fun {s} h => ⟨s, rfl, h⟩
  | cons i rest ih =>
    intro s h
    obtain ⟨u, hu, he⟩ := exec_effect i s
    obtain ⟨hi, hrest⟩ := List.forall_mem_cons.1 hkeep
    obtain ⟨t, ht, hP⟩ := ih hrest (hi s u h he)
    exact ⟨t, (execAll_cons hu rest).trans ht, hP⟩

/-- Nothing is collected while the phase is RECEIVE (R169). -/
def EmptyInReceive (s : State) : Prop := s.rc.phase = .receive → s.acc.len = 0

/-- What R169 says reads only the phase and the accumulator. -/
theorem EmptyInReceive.congr {s t : State} (h : EmptyInReceive s) (hrc : t.rc = s.rc) (hacc : t.acc = s.acc) :
    EmptyInReceive t := by
  rwa [EmptyInReceive, hrc, hacc]

theorem EmptyInReceive.of_transmit {s : State} (h : s.rc.phase = .transmit) : EmptyInReceive s :=
  fun hr => absurd (h.symm.trans hr) (by decide)

/-- Only a direct ADD can collect in RECEIVE: STEP collects in TRANSMIT alone, and the way back flushes first. -/
theorem EmptyInReceive.of_effect {s t : State} {i : Instr} (hadd : i.op ≠ .add) (h : EmptyInReceive s)
    (he : Effect s i t) : EmptyInReceive t := by
  cases he with
  | refused r => exact h.congr rfl rfl
  | push l => exact h.congr (by simp) (by simp)
  | pop n => exact h.congr (by simp) (by simp)
  | pack p l => exact h.congr rfl rfl
  | unpack p b => exact h.congr rfl rfl
  | rxfDiscard b => exact h.congr rfl rfl
  | rxfPush b l => exact h.congr (by simp) (by simp)
  | add x => exact absurd rfl hadd
  | flush => exact fun _ => s.flushAccumulator_len
  | enterTransmit now => exact .of_transmit rfl
  | receiveBody now ptt => exact h.congr (by simp) (by simp)
  | enterReceive now => exact fun _ => s.flushAccumulator_len
  | transmitBody now ptt c hp => exact .of_transmit (by simpa using hp)

/-- STEP in RECEIVE with the floor elapsed and push-to-talk asserted enters TRANSMIT (R162). -/
theorem exec_step_enterTransmit {s : State} {now : Word32} (hp : s.rc.phase = .receive)
    (hd : s.cfg.T_DWELL ≤ (now - s.rc.t_entry).toNat) :
    exec (.step now true []) s = .next ((s.enterTransmit now).respond .cons .nothing) := by
  simp [exec, execStep, hp, (s.floorElapsed_iff now).2 hd]

/-- Settles O48: the invariant holds at construction, every transaction but a direct ADD keeps it, and entering TRANSMIT
leaves the accumulator as it is. -/
theorem accumulatorIsEmptyInReceive : Obligations.AccumulatorIsEmptyInReceive := by
  unfold Obligations.AccumulatorIsEmptyInReceive
  refine ⟨fun cfg now0 buf data t ht => ?_, fun run s h hrun => ?_⟩
  · obtain ⟨-, rfl⟩ := initWith_next ht
    rfl
  · obtain ⟨t, ht, hempty⟩ :=
      execAll_keeps (P := EmptyInReceive) (fun i hi s t h he => h.of_effect (hrun i hi).1 he) h
    exact ⟨t, ht, hempty, fun now hp hd => ⟨_, exec_step_enterTransmit hp hd, rfl, hempty hp⟩⟩

/-! ### Written by (R31, R33 to R36) -/

@[simp] theorem State.pushSamples_underflow_events (l : List Sample) (s : State) :
    (s.pushSamples l).diag.underflow_events = s.diag.underflow_events := by
  rw [State.pushSamples_update]
  dsimp only
  split <;> rfl

@[simp] theorem State.popSamples_drop_events (n : Nat) (s : State) :
    (s.popSamples n).diag.drop_events = s.diag.drop_events := by
  rw [State.popSamples_eq]
  dsimp only [diagAfterPop]
  split <;> rfl

@[simp] theorem State.receiveBody_drop_events (s : State) :
    s.receiveBody.diag.drop_events = s.diag.drop_events := s.popSamples_drop_events _

theorem Effect.writes_rb {s t : State} {i : Instr} (h : Effect s i t) (hne : t.rb ≠ s.rb) :
    i.op = .push ∨ i.op = .rxf ∨ i.op = .pop ∨ (i.op = .step ∧ s.rc.phase = .receive) := by
  cases h with
  | push l => exact .inl rfl
  | rxfPush b l => exact .inr (.inl rfl)
  | pop n => exact .inr (.inr (.inl rfl))
  | receiveBody now ptt hp => exact .inr (.inr (.inr ⟨rfl, hp⟩))
  | _ => exact absurd (by simp) hne

theorem Effect.writes_drop_events {s t : State} {i : Instr} (h : Effect s i t)
    (hne : t.diag.drop_events ≠ s.diag.drop_events) : i.op = .push ∨ i.op = .rxf := by
  cases h with
  | push l => exact .inl rfl
  | rxfPush b l => exact .inr rfl
  | _ => exact absurd (by simp) hne

theorem Effect.writes_underflow_events {s t : State} {i : Instr} (h : Effect s i t)
    (hne : t.diag.underflow_events ≠ s.diag.underflow_events) :
    i.op = .pop ∨ (i.op = .step ∧ s.rc.phase = .receive) := by
  cases h with
  | pop n => exact .inl rfl
  | receiveBody now ptt hp => exact .inr ⟨rfl, hp⟩
  | _ => exact absurd (by simp) hne

theorem Effect.writes_acc {s t : State} {i : Instr} (h : Effect s i t) (hne : t.acc ≠ s.acc) :
    i.op = .add ∨ i.op = .flush ∨ (i.op = .step ∧ s.rc.phase = .transmit) := by
  cases h with
  | add x => exact .inl rfl
  | flush => exact .inr (.inl rfl)
  | enterReceive now hp => exact .inr (.inr ⟨rfl, hp⟩)
  | transmitBody now ptt c hp => exact .inr (.inr ⟨rfl, hp⟩)
  | _ => exact absurd (by simp) hne

theorem Effect.writes_rc {s t : State} {i : Instr} (h : Effect s i t) (hne : t.rc ≠ s.rc) : i.op = .step := by
  cases h with
  | enterTransmit now => rfl
  | enterReceive now => rfl
  | _ => exact absurd (by simp) hne

theorem Effect.writes_out {s t : State} {i : Instr} (h : Effect s i t) (hne : t.out ≠ s.out) :
    i.op = .add ∨ i.op = .flush ∨ i.op = .step := by
  cases h with
  | add x => exact .inl rfl
  | flush => exact .inr (.inl rfl)
  | enterTransmit now => exact .inr (.inr rfl)
  | receiveBody now ptt => exact .inr (.inr rfl)
  | enterReceive now => exact .inr (.inr rfl)
  | transmitBody now ptt c => exact .inr (.inr rfl)
  | _ => exact absurd (by simp) hne

/-- What is still to come is the environment's: no transaction touches it (R70, R204). -/
theorem Effect.keeps_environment {s t : State} {i : Instr} (h : Effect s i t) :
    t.prodStream = s.prodStream ∧ t.consStream = s.consStream ∧ t.turns = s.turns := by
  cases h <;> simp

/-- Settles O20: the effects that write a piece of state are those of its owners. -/
theorem stateIsWrittenOnlyByItsOwners : Obligations.StateIsWrittenOnlyByItsOwners := by
  unfold Obligations.StateIsWrittenOnlyByItsOwners
  intro i s t h
  have he := exec_next_effect h
  exact ⟨he.writes_rb, he.writes_drop_events, he.writes_underflow_events, he.writes_acc, he.writes_rc, he.writes_out,
    (Extends.of_effect he).cfg, he.keeps_environment⟩

/-! ### PROD reads and writes nothing of CONS (R34, R36, R38, R140) -/

/-- Other values for what is private to CONS, and another trace. -/
def State.withConsumer (acc : Accumulator) (rc : Coordinator) (underflows : Word32) (out : List Event) (s : State) :
    State :=
  { s with acc := acc, rc := rc, out := out, diag := { s.diag with underflow_events := underflows } }

theorem State.pushSamples_withConsumer (acc : Accumulator) (rc : Coordinator) (underflows : Word32) (out : List Event)
    (l : List Sample) (s : State) :
    (s.withConsumer acc rc underflows out).pushSamples l = (s.pushSamples l).withConsumer acc rc underflows out := by
  simp only [State.pushSamples_update, State.withConsumer]
  split <;> rfl

/-- What PUSH and RXF do: append samples, or discard a malformed frame (R100, R140). -/
theorem exec_producer {i : Instr} (hi : i.op = .push ∨ i.op = .rxf) (s : State) :
    (∃ l, ∀ t : State, t.cfg = s.cfg → exec i t = .next ((t.pushSamples l).respond .prod .nothing))
    ∨ ∀ t : State, t.cfg = s.cfg → exec i t = .next ((t.absorb .rxMalformed).respond .prod .nothing) := by
  cases i with
  | push l => exact .inl ⟨l, fun t _ => rfl⟩
  | rxf b =>
    cases hb : unpackFrame s.cfg b with
    | malformed => exact .inr fun t ht => by simp [exec, execRxf, ht, hb]
    | ok l => exact .inl ⟨l, fun t ht => by simp [exec, execRxf, ht, hb]⟩
  | _ => simp [Instr.op] at hi

/-- Settles O37: what PUSH and RXF do commutes with replacing everything that is private to CONS. -/
theorem producerReadsNothingOfTheConsumer : Obligations.ProducerReadsNothingOfTheConsumer := by
  unfold Obligations.ProducerReadsNothingOfTheConsumer
  intro i s t acc rc underflows out hi h
  change exec i (s.withConsumer acc rc underflows out) = .next (t.withConsumer acc rc underflows out)
  rcases exec_producer hi s with ⟨l, hx⟩ | hx
  · obtain rfl : _ = t := by simpa [hx s rfl] using h
    rw [hx (s.withConsumer acc rc underflows out) rfl, State.pushSamples_withConsumer]
    rfl
  · obtain rfl : _ = t := by simpa [hx s rfl] using h
    rw [hx (s.withConsumer acc rc underflows out) rfl]
    rfl

/-! ### PROD commutes with CONS where CONS does not pop (R56) -/

/-- Equal in what PUSH and RXF read and write: RB, the counters and the configuration. -/
structure SameProducerView (s t : State) : Prop where
  cfg : s.cfg = t.cfg
  rb : s.rb = t.rb
  diag : s.diag = t.diag

/-- Equal in what CONS reads and writes where it does not pop: ACC, RC, the trace and the configuration. -/
structure SameConsumerView (s t : State) : Prop where
  cfg : s.cfg = t.cfg
  acc : s.acc = t.acc
  rc : s.rc = t.rc
  out : s.out = t.out

theorem SameConsumerView.symm {s t : State} (h : SameConsumerView s t) : SameConsumerView t s :=
  ⟨h.cfg.symm, h.acc.symm, h.rc.symm, h.out.symm⟩

theorem SameConsumerView.trans {s t u : State} (h : SameConsumerView s t) (k : SameConsumerView t u) :
    SameConsumerView s u :=
  ⟨h.cfg.trans k.cfg, h.acc.trans k.acc, h.rc.trans k.rc, h.out.trans k.out⟩

theorem SameProducerView.pushSamples {s t : State} (h : SameProducerView s t) (l : List Sample) :
    SameProducerView (s.pushSamples l) (t.pushSamples l) := by
  obtain ⟨hcfg, hrb, hdiag⟩ := h
  constructor <;> simp [State.pushSamples_update, hcfg, hrb, hdiag]

/-- PUSH and RXF leave CONS's view alone, and what they do to PROD's depends on PROD's alone. -/
theorem exec_producer_views {i : Instr} (hi : i.op = .push ∨ i.op = .rxf) {s t : State} (h : exec i s = .next t) :
    SameConsumerView s t
    ∧ ∀ {s' t' : State}, SameProducerView s s' → exec i s' = .next t' → SameProducerView t t' := by
  rcases exec_producer hi s with ⟨l, hx⟩ | hx
  · obtain rfl : _ = t := by simpa [hx s rfl] using h
    refine ⟨by constructor <;> simp, fun {s' t'} hv h' => ?_⟩
    obtain rfl : _ = t' := by simpa [hx s' hv.cfg.symm] using h'
    obtain ⟨hcfg, hrb, hdiag⟩ := hv.pushSamples l
    exact ⟨hcfg, hrb, hdiag⟩
  · obtain rfl : _ = t := by simpa [hx s rfl] using h
    refine ⟨by constructor <;> simp, fun {s' t'} hv h' => ?_⟩
    obtain rfl : _ = t' := by simpa [hx s' hv.cfg.symm] using h'
    exact ⟨hv.cfg, hv.rb, hv.diag⟩

section ConsumerView

variable {s t : State} (h : SameConsumerView s t)
include h

theorem SameConsumerView.emit (e : Event) : SameConsumerView (s.emit e) (t.emit e) :=
  ⟨h.cfg, h.acc, h.rc, by simp [h.out]⟩

theorem SameConsumerView.respond (p : Port) (r r' : Result) : SameConsumerView (s.respond p r) (t.respond p r') :=
  ⟨h.cfg, h.acc, h.rc, h.out⟩

theorem SameConsumerView.refuse (p : Port) (r : RefusalReason) : SameConsumerView (s.refuse p r) (t.refuse p r) :=
  ⟨h.cfg, h.acc, h.rc, h.out⟩

theorem SameConsumerView.sendFrame (f : List Byte) : SameConsumerView (s.sendFrame f) (t.sendFrame f) := by
  rw [State.sendFrame_eq, State.sendFrame_eq]
  exact ⟨h.cfg, h.acc, h.rc, by simp [h.out]⟩

theorem SameConsumerView.addSample (x : Sample) : SameConsumerView (s.addSample x) (t.addSample x) := by
  simp only [State.addSample, h.cfg, h.acc]
  split
  · apply SameConsumerView.sendFrame
    exact ⟨rfl, rfl, h.rc, h.out⟩
  · exact ⟨rfl, rfl, h.rc, h.out⟩

theorem SameConsumerView.flushAccumulator : SameConsumerView s.flushAccumulator t.flushAccumulator := by
  simp only [State.flushAccumulator, h.cfg, h.acc]
  split
  · apply SameConsumerView.sendFrame
    exact ⟨rfl, rfl, h.rc, h.out⟩
  · exact h

theorem SameConsumerView.enterTransmit (now : Word32) : SameConsumerView (s.enterTransmit now) (t.enterTransmit now) :=
  ⟨h.cfg, h.acc, rfl, by simp [h.out]⟩

theorem SameConsumerView.enterReceive (now : Word32) : SameConsumerView (s.enterReceive now) (t.enterReceive now) where
  cfg := by simp [h.cfg]
  acc := h.flushAccumulator.acc
  rc := rfl
  out := by simp [h.cfg, h.flushAccumulator.out]

theorem SameConsumerView.floorElapsed (now : Word32) : s.floorElapsed now = t.floorElapsed now := by
  simp only [State.floorElapsed, h.cfg, h.rc]

theorem SameConsumerView.performsPop_iff (j : Instr) : PerformsPop s j ↔ PerformsPop t j := by
  cases j <;> simp only [PerformsPop, h.cfg, h.rc]

end ConsumerView

theorem SameConsumerView.addSamples (l : List Sample) :
    ∀ {s t : State}, SameConsumerView s t → SameConsumerView (s.addSamples l) (t.addSamples l) := by
  induction l with
  | nil => exact id
  | cons x rest ih => exact fun h => ih (h.addSample x)

theorem SameConsumerView.transmitBody {s t : State} (h : SameConsumerView s t) (c : List Sample) :
    SameConsumerView (s.transmitBody c) (t.transmitBody c) := (h.emit _).addSamples c

/-- STEP pops when it takes the RECEIVE body (R160, R164). -/
theorem performsPop_step_iff {s : State} {now : Word32} {ptt : Bool} {c : List Sample} :
    PerformsPop s (.step now ptt c) ↔ s.rc.phase = .receive ∧ c = [] ∧ ¬ (s.floorElapsed now && ptt) = true := by
  simp only [PerformsPop, Bool.and_eq_true, State.floorElapsed_iff]

theorem SameConsumerView.of_execStep {s t s' t' : State} {now : Word32} {ptt : Bool} {c : List Sample}
    (h : SameConsumerView s s') (hpop : ¬ PerformsPop s (.step now ptt c))
    (ht : execStep now ptt c s = .next t) (ht' : execStep now ptt c s' = .next t') : SameConsumerView t t' := by
  unfold execStep at ht ht'
  rw [← h.cfg, ← h.rc, ← h.floorElapsed now] at ht'
  rw [performsPop_step_iff] at hpop
  cases hp : s.rc.phase with
  | receive =>
    simp only [hp] at ht ht'
    split_ifs at ht ht' with hk hc hd
    · cases ht; cases ht'; exact h.refuse _ _
    · cases ht; cases ht'; exact h.refuse _ _
    · cases ht; cases ht'; exact (h.enterTransmit now).respond _ _ _
    · exact absurd ⟨hp, by simpa using hc, hd⟩ hpop
  | transmit =>
    simp only [hp] at ht ht'
    split_ifs at ht ht' with hk hd hc
    · cases ht; cases ht'; exact h.refuse _ _
    · cases ht; cases ht'; exact h.refuse _ _
    · cases ht; cases ht'; exact (h.enterReceive now).respond _ _ _
    · cases ht; cases ht'; exact (h.transmitBody c).respond _ _ _

/-- What CONS does, where it does not pop, to its own view depends on its own view alone. -/
theorem SameConsumerView.of_exec {j : Instr} {s t s' t' : State} (h : SameConsumerView s s')
    (hcons : j.op.allowedOn .cons = true) (hpop : ¬ PerformsPop s j) (ht : exec j s = .next t)
    (ht' : exec j s' = .next t') : SameConsumerView t t' := by
  cases j with
  | push l => simp [Instr.op, Op.allowedOn] at hcons
  | rxf b => simp [Instr.op, Op.allowedOn] at hcons
  | pop n => exact absurd trivial hpop
  | pack p l =>
    simp only [exec, execPack, h.cfg] at ht ht'
    split_ifs at ht ht'
    · cases ht; cases ht'; exact h.respond _ _ _
    · cases ht; cases ht'; exact h.refuse _ _
  | unpack p b => cases ht; cases ht'; exact h.respond _ _ _
  | add x => cases ht; cases ht'; exact (h.addSample x).respond _ _ _
  | flush => cases ht; cases ht'; exact h.flushAccumulator.respond _ _ _
  | step now ptt c => exact h.of_execStep hpop ht ht'

/-- CONS, where it does not pop, leaves PROD's view alone. -/
theorem Effect.sameProducerView {j : Instr} {s t : State} (he : Effect s j t) (hcons : j.op.allowedOn .cons = true)
    (hpop : ¬ PerformsPop s j) : SameProducerView s t := by
  cases he with
  | push l => simp [Instr.op, Op.allowedOn] at hcons
  | rxfDiscard b => simp [Instr.op, Op.allowedOn] at hcons
  | rxfPush b l => simp [Instr.op, Op.allowedOn] at hcons
  | pop n => exact absurd trivial hpop
  | receiveBody now ptt hp hd => exact absurd (performsPop_step_iff.2 ⟨hp, rfl, by simp [hd]⟩) hpop
  | _ => constructor <;> simp

/-- Settles O38: each agent's transaction leaves the other's view alone and reads only its own, so the order does not
matter. -/
theorem producerCommutesWithConsumerThatDoesNotPop : Obligations.ProducerCommutesWithConsumerThatDoesNotPop := by
  unfold Obligations.ProducerCommutesWithConsumerThatDoesNotPop
  intro i j s t u t' u' hi hcons hpop ht hu ht' hu'
  obtain ⟨hst, hprod⟩ := exec_producer_views hi ht
  obtain ⟨htu', -⟩ := exec_producer_views hi hu'
  have hpopt : ¬ PerformsPop t j := mt (hst.performsPop_iff j).2 hpop
  have hconsumer : SameConsumerView u u' := (hst.of_exec hcons hpop ht' hu).symm.trans htu'
  have htu : SameProducerView t u := (exec_next_effect hu).sameProducerView hcons hpopt
  have hpu' : SameProducerView t u' := hprod ((exec_next_effect ht').sameProducerView hcons hpop) hu'
  exact ⟨hconsumer.cfg, htu.rb.symm.trans hpu'.rb, hconsumer.acc, hconsumer.rc, htu.diag.symm.trans hpu'.diag,
    hconsumer.out⟩

end Sys2Proof.Machine

/-! ## Steps, idempotence and the order of the frames sent (20_memory.md) -/

namespace Sys2Proof.Machine

/-! ### What one step performs (R55, R60, R70, R171) -/

/-- Taking a transaction as one update (R70, R81). -/
theorem State.taken_eq (port : Port) (later : List Port) (rest : List Byte) (s : State) :
    s.taken port later rest =
      { s with
        turns := later
        prodStream := if port = .prod then rest else s.prodStream
        consStream := if port = .cons then rest else s.consStream } := by
  cases port <;> rfl

theorem step_of_no_turn {s : State} (h : s.turns = []) : step s = .next s := by
  simp only [step, h]

theorem step_of_decoded {s : State} {port : Port} {later : List Port} {i : Instr} {rest : List Byte}
    (ht : s.turns = port :: later) (hd : decode port (s.stream port) = .ok i rest) :
    step s = exec i (s.taken port later rest) := by
  simp only [step, ht, hd]

theorem step_of_undecoded {s : State} {port : Port} {later : List Port} {r : RefusalReason}
    (ht : s.turns = port :: later) (hd : decode port (s.stream port) = .refused r) :
    step s = .next (s.refusedAtDecode port later r) := by
  simp only [step, ht, hd]

theorem exec_completes (i : Instr) (s : State) : ∃ t, exec i s = .next t :=
  (exec_effect i s).imp fun _ h => h.1

/-- A step answers a next state in each of its three cases: no turn, a transaction, a refusal by the decoder. -/
theorem step_completes (s : State) : ∃ t, step s = .next t := by
  cases ht : s.turns with
  | nil => exact ⟨s, step_of_no_turn ht⟩
  | cons port later =>
    cases hd : decode port (s.stream port) with
    | ok i rest => exact step_of_decoded ht hd ▸ exec_completes i _
    | refused r => exact ⟨_, step_of_undecoded ht hd⟩

/-- Settles O7: a step that decodes is `exec` after the bytes are taken, and taking them is that update. -/
theorem stepRunsTheDecodedTransaction : Obligations.StepRunsTheDecodedTransaction := by
  unfold Obligations.StepRunsTheDecodedTransaction
  intro s port later i rest ht hd
  rw [step_of_decoded ht hd, State.taken_eq]

/-- Settles O8: the first case of a step. -/
theorem stepWithoutTurnChangesNothing : Obligations.StepWithoutTurnChangesNothing := by
  unfold Obligations.StepWithoutTurnChangesNothing
  exact fun _ => step_of_no_turn

/-- Settles O10: every transaction has an effect, and the other two cases of a step answer a next state themselves. -/
theorem everyStepCompletes : Obligations.EveryStepCompletes := by
  unfold Obligations.EveryStepCompletes
  exact fun s => ⟨step_completes s, fun i => exec_completes i s⟩

/-! ### Idempotence (R58) -/

theorem SameCore.respond (p : Port) (r : Result) (s : State) : SameCore s (s.respond p r) :=
  ⟨rfl, rfl, rfl, rfl, rfl, rfl⟩

theorem SameCore.refuse (p : Port) (r : RefusalReason) (s : State) : SameCore s (s.refuse p r) :=
  ⟨rfl, rfl, rfl, rfl, rfl, rfl⟩

/-- PACK and UNPACK write no core state and emit nothing, refused or not (R120, R121). -/
theorem Effect.sameCore_of_codec {s t : State} {i : Instr} (he : Effect s i t) (hi : i.op = .pack ∨ i.op = .unpack) :
    SameCore s t := by
  cases he with
  | refused i r => exact .refuse _ _ s
  | pack p l => exact .respond _ _ s
  | unpack p b => exact .respond _ _ s
  | _ => simp [Instr.op] at hi

/-- FLUSH of an empty accumulator changes no core state and emits nothing (R143). -/
theorem exec_flush_sameCore {s t : State} (hz : s.acc.len = 0) (h : exec .flush s = .next t) : SameCore s t := by
  cases h
  rw [State.flushAccumulator_none hz]
  exact .respond _ _ s

theorem exec_flush_len {s t : State} (h : exec .flush s = .next t) : t.acc.len = 0 := by
  cases h
  exact s.flushAccumulator_len

theorem eq_flush_of_op {i : Instr} (h : i.op = .flush) : i = .flush := by
  cases i with
  | flush => rfl
  | _ => cases h

/-- After reset, with samples 1 and 2 buffered: a state where a POP of one sample takes one. -/
def State.twoBuffered : State := State.reset.pushSamples [1#16, 2#16]

/-- Settles O39: PACK and UNPACK leave the core alone, and a FLUSH leaves the accumulator empty, so that the next one sends
nothing. The others, twice: PUSH and RXF buffer two samples and not one, POP takes two, ADD collects two, and STEP in
RECEIVE writes the sink twice. -/
theorem idempotentTransactions : Obligations.IdempotentTransactions := by
  unfold Obligations.IdempotentTransactions
  have hreset : StorageInv State.reset := resetIsConstructedAndInvariant.2.1
  refine ⟨fun i s t u hi ht hu => ?_, fun op hop => ?_⟩
  · rcases hi with hpack | hunpack | hflush
    · exact (exec_next_effect hu).sameCore_of_codec (.inl hpack)
    · exact (exec_next_effect hu).sameCore_of_codec (.inr hunpack)
    · obtain rfl := eq_flush_of_op hflush
      exact exec_flush_sameCore (exec_flush_len ht) hu
  · rcases hop with rfl | rfl | rfl | rfl | rfl
    · refine ⟨.push [1#16], State.reset, _, _, rfl, hreset, rfl, rfl, ?_⟩
      rintro ⟨-, hrb, -⟩
      exact absurd (congrArg Ring.cnt hrb) (by decide)
    · refine ⟨.pop 1, State.twoBuffered, _, _, rfl, hreset.pushSamples _, rfl, rfl, ?_⟩
      rintro ⟨-, hrb, -⟩
      exact absurd (congrArg Ring.cnt hrb) (by decide)
    · refine ⟨.rxf [0xA5#8, 0x5A#8, 0x01#8, 0x00#8], State.reset, _, _, rfl, hreset, rfl, rfl, ?_⟩
      rintro ⟨-, hrb, -⟩
      exact absurd (congrArg Ring.cnt hrb) (by decide)
    · refine ⟨.add 1#16, State.reset, _, _, rfl, hreset, rfl, rfl, ?_⟩
      rintro ⟨-, -, hacc, -⟩
      exact absurd (congrArg Accumulator.len hacc) (by decide)
    · refine ⟨.step 0#32 false [], State.reset, _, _, rfl, hreset, rfl, rfl, ?_⟩
      rintro ⟨-, -, -, -, -, hout⟩
      exact absurd (congrArg List.length hout) (by decide)

/-! ### The frames of a list of samples (R144, R145) -/

/-- The frames of all the samples, in order: `M` samples each, the last one what is left. -/
def chunkFrames (cfg : Config) (l : List Sample) : List (List Byte) :=
  (List.range ((l.length + cfg.M - 1) / cfg.M)).map fun j => buildFrame cfg ((l.drop (j * cfg.M)).take cfg.M)

theorem framesSent_append (a b : List Event) : framesSent (a ++ b) = framesSent a ++ framesSent b :=
  List.filterMap_append

theorem framesSent_fullFrames (cfg : Config) (l : List Sample) :
    framesSent (fullFrames cfg l) =
      (List.range (l.length / cfg.M)).map fun j => buildFrame cfg ((l.drop (j * cfg.M)).take cfg.M) := by
  simp [framesSent, fullFrames, List.filterMap_map]

/-- Rounded up, there is one chunk more than full ones exactly when samples are left. -/
theorem chunks_eq {M : Nat} (hM : 1 ≤ M) (n : Nat) : (n + M - 1) / M = n / M + if 0 < n % M then 1 else 0 := by
  have hlt := Nat.mod_lt n hM
  have hsplit := Nat.mod_add_div n M
  split
  · rw [show n + M - 1 = (n % M - 1) + M * (n / M + 1) by rw [Nat.mul_succ]; omega, Nat.add_mul_div_left _ _ hM,
      Nat.div_eq_of_lt (a := n % M - 1) (by omega), Nat.zero_add]
  · rw [show n + M - 1 = (M - 1) + M * (n / M) by omega, Nat.add_mul_div_left _ _ hM,
      Nat.div_eq_of_lt (a := M - 1) (by omega), Nat.zero_add, Nat.add_zero]

/-- The full frames, and the frame of the rest if there is one, are the frames of all the samples. -/
theorem chunkFrames_eq {cfg : Config} (hM : 1 ≤ cfg.M) (l : List Sample) :
    chunkFrames cfg l =
      framesSent (fullFrames cfg l) ++ if 0 < l.length % cfg.M then [buildFrame cfg (unframed cfg l)] else [] := by
  rw [framesSent_fullFrames, chunkFrames, chunks_eq hM]
  split
  · have hstart : l.length / cfg.M * cfg.M = l.length - l.length % cfg.M := by
      have := Nat.div_add_mod' l.length cfg.M
      omega
    have hrest : (l.drop (l.length / cfg.M * cfg.M)).take cfg.M = unframed cfg l := by
      rw [hstart]
      exact List.take_of_length_le ((unframed_length cfg l).trans_lt (Nat.mod_lt _ hM)).le
    rw [List.range_succ, List.map_append, List.map_singleton, hrest]
  · simp

/-! ### One utterance (R61, R165, R166) -/

/-- From `s` to `t` the samples `l` were added in TRANSMIT: the full frames of what was collected and of `l` are sent, the
rest is collected, and the phase stands. -/
structure Sends (l : List Sample) (s t : State) : Prop where
  cfg : t.cfg = s.cfg
  rc : t.rc = s.rc
  acc : AccOk s.cfg.M t.acc
  collected : t.acc.collected = unframed s.cfg (s.acc.collected ++ l)
  frames : framesSent t.out = framesSent s.out ++ framesSent (fullFrames s.cfg (s.acc.collected ++ l))

theorem AccOk.collected_length {M : Nat} {a : Accumulator} (h : AccOk M a) : a.collected.length = a.len :=
  Accumulator.collected_length (h.dataSize ▸ h.lenRange.le)

theorem Sends.refl {s : State} (h : AccOk s.cfg.M s.acc) : Sends [] s s := by
  have hlt : s.acc.collected.length < s.cfg.M := h.collected_length ▸ h.lenRange
  refine ⟨rfl, rfl, h, ?_, ?_⟩
  · rw [List.append_nil, unframed_of_lt hlt]
  · rw [List.append_nil, fullFrames_of_lt hlt]
    exact (List.append_nil _).symm

theorem Sends.trans {a b : List Sample} {s t u : State} (hM : 1 ≤ s.cfg.M) (h : Sends a s t) (k : Sends b t u) :
    Sends (a ++ b) s u := by
  obtain ⟨hframes, hrest⟩ := frames_append hM _ (s.acc.collected ++ a) b le_rfl
  rw [List.append_assoc] at hframes hrest
  refine ⟨k.cfg.trans h.cfg, k.rc.trans h.rc, h.cfg ▸ k.acc, ?_, ?_⟩
  · rw [k.collected, h.cfg, h.collected, hrest]
  · rw [k.frames, h.frames, h.cfg, h.collected, hframes, framesSent_append, List.append_assoc]

/-- The TRANSMIT body sends what it captured (R166). -/
theorem Sends.transmitBody {s : State} (h : AccOk s.cfg.M s.acc) (c : List Sample) : Sends c s (s.transmitBody c) := by
  obtain ⟨hout, hcollected, -, -⟩ := State.addSamples_spec c (s := s.emit (.capRd c.length)) h
  refine ⟨by simp, by simp, AccOk.addSamples (s := s.emit _) c h, hcollected, ?_⟩
  rw [State.transmitBody, hout, framesSent_append, State.emit_out, framesSent_append]
  simp [framesSent]

theorem Sends.respond {l : List Sample} {s t : State} (h : Sends l s t) (p : Port) (r : Result) :
    Sends l s (t.respond p r) :=
  ⟨h.cfg, h.rc, h.acc, h.collected, h.frames⟩

/-- STEP in TRANSMIT that is not due takes the TRANSMIT body (R160, R166). -/
theorem exec_step_transmitBody {s : State} {now : Word32} {ptt : Bool} {c : List Sample} (hp : s.rc.phase = .transmit)
    (hc : c.length ≤ s.cfg.K_CAP) (hd : ¬ (s.cfg.T_DWELL ≤ (now - s.rc.t_entry).toNat ∧ ptt = false)) :
    exec (.step now ptt c) s = .next ((s.transmitBody c).respond .cons .nothing) := by
  rw [← State.floorElapsed_iff, ← Bool.not_eq_true', ← Bool.and_eq_true, Bool.not_eq_true] at hd
  simp [exec, execStep, hp, hc.not_gt, hd]

/-- STEP in TRANSMIT with the floor elapsed and push-to-talk released enters RECEIVE (R162). -/
theorem exec_step_enterReceive {s : State} {now : Word32} (hp : s.rc.phase = .transmit)
    (hd : s.cfg.T_DWELL ≤ (now - s.rc.t_entry).toNat) :
    exec (.step now false []) s = .next ((s.enterReceive now).respond .cons .nothing) := by
  simp [exec, execStep, hp, (s.floorElapsed_iff now).2 hd]

/-- Iterations that stay in TRANSMIT send all they capture, in order. -/
theorem execAll_transmitBodies (body : List (Word32 × Bool × List Sample)) :
    ∀ {s : State}, AccOk s.cfg.M s.acc → s.rc.phase = .transmit →
      (∀ x ∈ body, x.2.2.length ≤ s.cfg.K_CAP
        ∧ ¬ (s.cfg.T_DWELL ≤ (x.1 - s.rc.t_entry).toNat ∧ x.2.1 = false)) →
      ∃ t, execAll (body.map fun x => .step x.1 x.2.1 x.2.2) s = .next t
        ∧ Sends (body.map (·.2.2)).flatten s t := by
  induction body with
  | nil => exact fun {s} h _ _ => ⟨s, rfl, .refl h⟩
  | cons x rest ih =>
    intro s h hp hstay
    obtain ⟨⟨hc, hd⟩, hrest⟩ := List.forall_mem_cons.1 hstay
    have hu := exec_step_transmitBody hp hc hd
    have hone := (Sends.transmitBody h x.2.2).respond .cons .nothing
    obtain ⟨t, ht, hsends⟩ := ih (hone.cfg.symm ▸ hone.acc) (hone.rc ▸ hp) (by rwa [hone.cfg, hone.rc])
    exact ⟨t, (execAll_cons hu _).trans ht, hone.trans (Nat.one_le_of_lt h.lenRange) hsends⟩

/-- Leaving TRANSMIT sends what is still collected (R165). -/
theorem framesSent_enterReceive (now : Word32) (s : State) :
    framesSent (s.enterReceive now).out =
      framesSent s.out ++ if 0 < s.acc.len then [buildFrame s.cfg s.acc.collected] else [] := by
  rw [State.enterReceive_out, State.flushAccumulator_out, framesSent_append, framesSent_append, flushFrames]
  split <;> simp [framesSent]

/-- An utterance from an empty accumulator sends all its samples once it is left (R144, R145, R165). -/
theorem Sends.frames_enterReceive {l : List Sample} {s t : State} (h : Sends l s t) (hz : s.acc.len = 0)
    (now : Word32) : framesSent (t.enterReceive now).out = framesSent s.out ++ chunkFrames s.cfg l := by
  have hM : 1 ≤ s.cfg.M := Nat.one_le_of_lt h.acc.lenRange
  have hempty : s.acc.collected ++ l = l := by simp [Accumulator.collected, hz]
  have hcollected : t.acc.collected = unframed s.cfg l := by rw [h.collected, hempty]
  have hlen : t.acc.len = l.length % s.cfg.M := by
    rw [← h.acc.collected_length, hcollected, unframed_length]
  rw [framesSent_enterReceive, h.frames, hempty, hcollected, hlen, h.cfg, chunkFrames_eq hM, List.append_assoc]

/-- Settles O49: the iterations that stay send the full frames and collect the rest, the one that leaves flushes the rest,
and together these are the frames of the captured samples. -/
theorem utteranceIsSentWhole : Obligations.UtteranceIsSentWhole := by
  unfold Obligations.UtteranceIsSentWhole
  intro s body now hinv hp hz hstay hdue captured
  obtain ⟨t, ht, hsends⟩ := execAll_transmitBodies body hinv.accumulator hp hstay
  have hleave := exec_step_enterReceive (s := t) (now := now) (hsends.rc ▸ hp) (by rwa [hsends.cfg, hsends.rc])
  refine ⟨_, (execAll_append _ _ ht).trans (execAll_cons hleave []), rfl, t.flushAccumulator_len, ?_⟩
  exact hsends.frames_enterReceive hz now

end Sys2Proof.Machine

/-! ## Encoding, decoding and the assembler (30_encoding.md) -/

namespace Sys2Proof

open Sys2Proof.Machine

/-! ### What the decoder answers, said once (R75, R81) -/

/-- Every operation may be issued on the port of its transaction (R74). -/
@[simp] theorem op_allowedOn_port (i : Instr) : i.op.allowedOn i.port = true := by cases i <;> rfl

/-- Only the four bytes of a command word can be too few. -/
theorem decode_short (port : Port) {T : List Byte} (h : T.length < 4) : decode port T = .refused .truncated := by
  match T, h with
  | [], _ | [_], _ | [_, _], _ | [_, _, _], _ => rfl
  | _ :: _ :: _ :: _ :: _, h => simp at h; omega

theorem exists_word_of_length {T : List Byte} (h : 4 ≤ T.length) : ∃ cw area, T = bytesOfWord32 cw ++ area := by
  match T, h with
  | b0 :: b1 :: b2 :: b3 :: area, _ => exact ⟨_, _, bytes_eq_word32_append b0 b1 b2 b3 area⟩

/-- A command word that fails a check refuses the transaction. -/
theorem decode_of_error {port : Port} {cw : Word32} {r : RefusalReason} (h : decodeCommandWord port cw = .error r)
    (area : List Byte) : decode port (bytesOfWord32 cw ++ area) = .refused r := by
  rw [decode_commandWord, h]

/-- A command word that passes the checks, with its whole operand area behind it. -/
theorem decode_of_ok {port : Port} {cw : Word32} {op : Op} (h : decodeCommandWord port cw = .ok op) {area : List Byte}
    (hlen : areaLength op.format (cwN cw).toNat ≤ area.length) :
    decode port (bytesOfWord32 cw ++ area) =
      .ok (assemble port op (cwP cw) (cwN cw) (area.take (areaLength op.format (cwN cw).toNat)))
        (area.drop (areaLength op.format (cwN cw).toNat)) := by
  simp only [decode_commandWord, h, hlen.not_gt, if_false]

/-- A command word that passes the checks, with a part of its operand area missing. -/
theorem decode_of_ok_short {port : Port} {cw : Word32} {op : Op} (h : decodeCommandWord port cw = .ok op)
    {area : List Byte} (hlen : area.length < areaLength op.format (cwN cw).toNat) :
    decode port (bytesOfWord32 cw ++ area) = .refused .truncated := by
  simp only [decode_commandWord, h, hlen, if_true]

/-- What is decoded passed the checks, and has the fields and the operand area it was decoded from. -/
theorem decode_word_ok {port : Port} {cw : Word32} {area rest : List Byte} {i : Instr}
    (h : decode port (bytesOfWord32 cw ++ area) = .ok i rest) :
    decodeCommandWord port cw = .ok i.op ∧ i.wellFormed = true ∧ i.port = port ∧ i.fieldP = cwP cw
      ∧ i.fieldN = cwN cw ∧ area = i.operandArea ++ rest := by
  cases hcw : decodeCommandWord port cw with
  | error r => rw [decode_of_error hcw] at h; cases h
  | ok op =>
    by_cases hlen : area.length < areaLength op.format (cwN cw).toNat
    · rw [decode_of_ok_short hcw hlen] at h; cases h
    · rw [decode_of_ok hcw (not_lt.1 hlen)] at h
      cases h
      obtain ⟨-, -, hp, hf, ha⟩ := decodeCommandWord_ok hcw
      obtain ⟨hwf, hport, hop, hP, hN, harea⟩ := assemble_fields (port := port)
        (List.length_take_of_le (not_lt.1 hlen)) hp hf ha
      exact ⟨by rw [hop], hwf, hport, hP, hN, by rw [harea, List.take_append_drop]⟩

/-! ### Decode and encode are inverse (R71 to R81) -/

theorem decode_encode {i : Instr} (h : i.wellFormed = true) (rest : List Byte) :
    decode i.port (encode i ++ rest) = .ok i rest := by
  have hlen := operandArea_length h
  have hcw : decodeCommandWord i.port (commandWord i.op i.fieldP i.fieldN) = .ok i.op := by
    simp [decodeCommandWord_encoded]
  rw [encode, List.append_assoc, decode_of_ok hcw (by simp [hlen]), cwP_commandWord, cwN_commandWord, ← hlen,
    List.take_left, List.drop_left, assemble_encoded h]

theorem encode_of_decode {port : Port} {T rest : List Byte} {i : Instr} (h : decode port T = .ok i rest) :
    i.wellFormed = true ∧ i.port = port ∧ T = encode i ++ rest := by
  have hT : 4 ≤ T.length := by
    by_contra hlt
    rw [decode_short port (not_le.1 hlt)] at h
    cases h
  obtain ⟨cw, area, rfl⟩ := exists_word_of_length hT
  obtain ⟨hcw, hwf, hport, hP, hN, harea⟩ := decode_word_ok h
  obtain ⟨hop, hz, -⟩ := decodeCommandWord_ok hcw
  refine ⟨hwf, hport, ?_⟩
  rw [encode, hP, hN, commandWord_of_fields hop hz, harea, List.append_assoc]

/-- On a port that may not issue it a transaction fails the port check, whatever its operands are (R75). -/
theorem decode_encode_wrongPort {i : Instr} {port : Port} (h : i.op.allowedOn port = false) (rest : List Byte) :
    decode port (encode i ++ rest) = .refused .wrongPort := by
  rw [encode, List.append_assoc]
  exact decode_of_error (by simp [decodeCommandWord_encoded, h]) _

/-- Settles O2: the checks pass, and the fields and the operand area reassemble to the transaction. -/
theorem decodeOfEncode : Obligations.DecodeOfEncode := by
  unfold Obligations.DecodeOfEncode
  exact fun _ rest h => decode_encode h rest

/-- Settles O3: what passed the checks has a zero `Z` and the fields of its command word, so it encodes to that word. -/
theorem encodeOfDecode : Obligations.EncodeOfDecode := by
  unfold Obligations.EncodeOfDecode
  exact fun _ _ _ _ => encode_of_decode

/-- Settles O1: the byte strings are closed, so the decoder is evaluated on them. -/
theorem specExampleTransactionsDecode : Obligations.SpecExampleTransactionsDecode := by
  unfold Obligations.SpecExampleTransactionsDecode
  decide

/-! ### The check order on numbers (R75, R79) -/

theorem decodeCommandWord_of_unlisted (port : Port) {cw : Word32} (h : opOfCode (cwOP cw) = none) :
    decodeCommandWord port cw = .error .illegalOpcode := by
  rw [decodeCommandWord, h]

theorem eq_step_iff_code (op : Op) : op = .step ↔ op.code.toNat = 8 := by cases op <;> decide

theorem eq_flush_iff_code (op : Op) : op = .flush ↔ op.code.toNat = 7 := by cases op <;> decide

/-- The port column of R74, by operation code. -/
theorem allowedOn_eq_false_iff_code (op : Op) (port : Port) :
    op.allowedOn port = false ↔
      (port = .prod ∧ (op.code.toNat = 2 ∨ op.code.toNat = 6 ∨ op.code.toNat = 7 ∨ op.code.toNat = 8))
      ∨ (port = .cons ∧ (op.code.toNat = 1 ∨ op.code.toNat = 5)) := by
  cases port <;> cases op <;> decide

/-- The length column of R72, by operation code. -/
theorem areaLength_eq_of_code (op : Op) (n : Nat) :
    areaLength op.format n =
      if op.code.toNat = 1 ∨ op.code.toNat = 3 then 2 * n
      else if op.code.toNat = 4 ∨ op.code.toNat = 5 then n
      else if op.code.toNat = 8 then 4 + 2 * n else 0 := by
  cases op <;> rfl

/-- The checks behind that of the operation code, on numbers. -/
theorem decodeCommandWord_of_listed (port : Port) {cw : Word32} {op : Op} (h : opOfCode (cwOP cw) = some op) :
    decodeCommandWord port cw =
      if (cwZ cw).toNat ≠ 0 then .error .reservedNonzero
      else if cwP cw = true ∧ op.code.toNat ≠ 8 then .error .reservedNonzero
      else if op.code.toNat = 7 ∧ (cwN cw).toNat ≠ 0 then .error .reservedNonzero
      else if port = .prod ∧ (op.code.toNat = 2 ∨ op.code.toNat = 6 ∨ op.code.toNat = 7 ∨ op.code.toNat = 8) then
        .error .wrongPort
      else if port = .cons ∧ (op.code.toNat = 1 ∨ op.code.toNat = 5) then .error .wrongPort
      else .ok op := by
  rw [decodeCommandWord, h]
  simp only [ne_eq, eq_step_iff_code, eq_flush_iff_code, allowedOn_eq_false_iff_code, ite_or, ← BitVec.toNat_inj,
    BitVec.toNat_ofNat, Nat.zero_mod]

/-- Settles O4: the fields of the command word are those numbers, so the statement's clauses are the model's checks; what
passes them all is decoded with these fields. -/
theorem decodeChecksInOrder : Obligations.DecodeChecksInOrder := by
  unfold Obligations.DecodeChecksInOrder
  refine ⟨fun port T => decode_short port, ?_⟩
  intro port b0 b1 b2 b3 area
  rw [bytes_eq_word32_append, ← word32OfBytes_toNat]
  generalize word32OfBytes b0 b1 b2 b3 = w
  have hP : w.toNat / 2 ^ 27 % 2 = 1 ↔ cwP w = true := by simp [cwP_eq]
  simp only [← cwOP_toNat, ← cwZ_toNat, ← cwN_toNat, hP, Bool.decide_eq_true, ← opOfCode_eq_none_iff]
  cases hop : opOfCode (cwOP w) with
  | none => exact if_pos rfl ▸ decode_of_error (decodeCommandWord_of_unlisted port hop) area
  | some op =>
    have hcheck := decodeCommandWord_of_listed port hop
    simp only [← code_of_opOfCode hop, ← areaLength_eq_of_code, reduceCtorEq, if_false]
    split_ifs at hcheck ⊢ with hz hp hn hprod hcons hlen
    iterate 5 exact decode_of_error hcheck area
    · exact decode_of_ok_short hcheck hlen
    · obtain ⟨i, hdecode⟩ : ∃ i, decode port (bytesOfWord32 w ++ area) = .ok i _ :=
        ⟨_, decode_of_ok hcheck (not_lt.1 hlen)⟩
      obtain ⟨hi, hwf, hport, hfieldP, hfieldN, harea⟩ := decode_word_ok hdecode
      obtain rfl : op = i.op := Except.ok.inj (hcheck.symm.trans hi)
      refine ⟨i, hdecode, rfl, hport, hfieldP, by rw [hfieldN], ?_⟩
      rw [← hfieldN, ← operandArea_length hwf]
      exact ((congrArg (List.take _) harea).trans List.take_left).symm

/-! ### The rows of the opcode table (R71, R74, R79) -/

/-- A command word is its four fields (R71). -/
theorem word_eq_iff_fields (a b : Word32) :
    a = b ↔ cwOP a = cwOP b ∧ cwP a = cwP b ∧ cwZ a = cwZ b ∧ cwN a = cwN b := by
  refine ⟨fun h => by simp [h], fun ⟨hOP, hP, hZ, hN⟩ => BitVec.eq_of_toNat_eq ?_⟩
  have hOP := congrArg BitVec.toNat hOP
  have hZ := congrArg BitVec.toNat hZ
  have hN := congrArg BitVec.toNat hN
  rw [cwOP_toNat, cwOP_toNat] at hOP
  rw [cwZ_toNat, cwZ_toNat] at hZ
  rw [cwN_toNat, cwN_toNat] at hN
  rw [cwP_eq, cwP_eq, decide_eq_decide] at hP
  omega

/-- The mask of an operation's row: all fixed bits of its command word (R71, R74; spec/opcode_table.json). -/
def Op.rowMask : Op → Word32
  | .flush => 0xFFFFFFFF#32
  | .step => 0xF7FF0000#32
  | _ => 0xFFFF0000#32

theorem cwOP_and (a b : Word32) : cwOP (a &&& b) = cwOP a &&& cwOP b := BitVec.extractLsb'_and

theorem cwP_and (a b : Word32) : cwP (a &&& b) = (cwP a && cwP b) := BitVec.getLsbD_and

theorem cwZ_and (a b : Word32) : cwZ (a &&& b) = cwZ a &&& cwZ b := BitVec.extractLsb'_and

theorem cwN_and (a b : Word32) : cwN (a &&& b) = cwN a &&& cwN b := BitVec.extractLsb'_and

/-- A mask fixes `OP` and `Z` whole, `P` but for STEP, and `N` for FLUSH alone. -/
theorem rowMask_fields (op : Op) :
    cwOP op.rowMask = BitVec.allOnes 4 ∧ cwP op.rowMask = decide (op ≠ .step) ∧ cwZ op.rowMask = BitVec.allOnes 11
      ∧ cwN op.rowMask = if op = .flush then BitVec.allOnes 16 else 0#16 := by
  cases op <;> decide

/-- The masked word is the row's match exactly when the four fields pass the row's checks. -/
theorem and_rowMask_eq_iff (cw : Word32) (op : Op) :
    cw &&& op.rowMask = commandWord op false 0#16 ↔
      cwOP cw = op.code ∧ (cwP cw = true → op = .step) ∧ cwZ cw = 0#11 ∧ (op = .flush → cwN cw = 0#16) := by
  obtain ⟨hOP, hP, hZ, hN⟩ := rowMask_fields op
  have hPmask : (cwP cw && decide (op ≠ .step)) = false ↔ (cwP cw = true → op = .step) := by
    simp [imp_iff_not_or]
  have hNmask : (cwN cw &&& if op = .flush then BitVec.allOnes 16 else 0#16) = 0#16 ↔ (op = .flush → cwN cw = 0#16) := by
    by_cases h : op = .flush
    · rw [if_pos h, BitVec.and_allOnes, forall_prop_of_true h]
    · simp [h]
  rw [word_eq_iff_fields, cwOP_and, cwP_and, cwZ_and, cwN_and, hOP, hP, hZ, hN, BitVec.and_allOnes, BitVec.and_allOnes,
    cwOP_commandWord, cwP_commandWord, cwZ_commandWord, cwN_commandWord, hPmask, hNmask]

/-- On a port that allows the operation the checks pass exactly on its row. -/
theorem decodeCommandWord_eq_ok_iff {port : Port} {op : Op} (ha : op.allowedOn port = true) (cw : Word32) :
    decodeCommandWord port cw = .ok op ↔ cw &&& op.rowMask = commandWord op false 0#16 := by
  rw [and_rowMask_eq_iff]
  constructor
  · intro h
    obtain ⟨hop, hz, hp, hn, -⟩ := decodeCommandWord_ok h
    exact ⟨(code_of_opOfCode hop).symm, hp, hz, hn⟩
  · rintro ⟨hop, hp, hz, hn⟩
    have hP : ¬ (cwP cw = true ∧ op ≠ .step) := fun ⟨h, hne⟩ => hne (hp h)
    have hN : ¬ (op = .flush ∧ cwN cw ≠ 0#16) := fun ⟨h, hne⟩ => hne (hn h)
    simp only [decodeCommandWord, hop, opOfCode_code, hz, ne_eq, not_true_eq_false, if_false, if_neg hP, if_neg hN, ha,
      Bool.true_eq_false]

/-- Settles O5: each row of the table is the mask and the match of its operation. -/
theorem commandWordMatchesItsTableRow : Obligations.CommandWordMatchesItsTableRow := by
  unfold Obligations.CommandWordMatchesItsTableRow
  intro port cw op ha
  rw [decodeCommandWord_eq_ok_iff ha]
  cases op <;> exact Iff.rfl

/-! ### The assembler (R84, R85) -/

/-- Only PACK and UNPACK have a choice of port (R74). -/
theorem port_eq_of_allowedOn {i : Instr} {port : Port} (h : i.op.allowedOn port = true)
    (hp : i.op = .pack ∨ i.op = .unpack → i.port = port) : i.port = port := by
  cases i <;> simp_all [Instr.op, Op.allowedOn, Instr.port]

/-- What a mnemonic and its operands stand for: a transaction that has an encoding, of the operation the mnemonic names,
and on the given port where there is a choice. -/
structure Denotes (port : Port) (mnemonic : List Char) (i : Instr) : Prop where
  wellFormed : i.wellFormed = true
  mnemonic : mnemonic = mnemonicOf i.op
  port : i.op = .pack ∨ i.op = .unpack → i.port = port

theorem parseDecimal_le {limit v : Nat} {cs : List Char} (h : parseDecimal limit cs = some v) : v ≤ limit := by
  unfold parseDecimal at h
  split at h
  · cases h
  · split at h
    · cases h
    · split_ifs at h with hle
      exact Option.some.inj h ▸ hle

theorem operandsToInstr_ok {α : Type} {parsed : Option (List α)} {build : List α → Instr} {i : Instr}
    (h : operandsToInstr parsed build = .ok i) : ∃ as, fitsN as.length = true ∧ i = build as := by
  unfold operandsToInstr at h
  split at h
  · cases h
  · split_ifs at h with hfits
    exact ⟨_, hfits, (Except.ok.inj h).symm⟩

theorem operandToInstr_ok {α : Type} {parsed : Option α} {build : α → Instr} {i : Instr}
    (h : operandToInstr parsed build = .ok i) : ∃ a, parsed = some a ∧ i = build a := by
  cases parsed with
  | none => cases h
  | some a => exact ⟨a, rfl, (Except.ok.inj h).symm⟩

theorem denotes_of_parseInstr {port : Port} {mnemonic : List Char} {operands : List (List Char)} {i : Instr}
    (h : parseInstr port mnemonic operands = .ok i) : Denotes port mnemonic i := by
  unfold parseInstr at h
  split at h
  case h_1 | h_2 | h_3 | h_4 =>
    obtain ⟨as, hfits, rfl⟩ := operandsToInstr_ok h
    exact ⟨hfits, rfl, by simp [Instr.op, Instr.port]⟩
  case h_5 =>
    split at h
    · obtain ⟨count, hcount, rfl⟩ := operandToInstr_ok h
      exact ⟨decide_eq_true (parseDecimal_le hcount), rfl, by simp [Instr.op]⟩
    · cases h
  case h_6 =>
    split at h
    · obtain ⟨sample, -, rfl⟩ := operandToInstr_ok h
      exact ⟨rfl, rfl, by simp [Instr.op]⟩
    · cases h
  case h_7 =>
    split at h
    · cases h
      exact ⟨rfl, rfl, by simp [Instr.op]⟩
    · cases h
  case h_8 =>
    split at h
    · split at h
      · obtain ⟨captured, hfits, rfl⟩ := operandsToInstr_ok h
        exact ⟨hfits, rfl, by simp [Instr.op]⟩
      · cases h
    · cases h
  case h_9 => cases h

/-- The two kinds of line that assemble to bytes (R84): without a port, and with one named in front. -/
theorem assembleLine_ok {line : List Char} {port : Port} {T : List Byte}
    (h : assembleLine line = .ok (some (port, T))) :
    (∃ body i, splitAtChar ':' (withoutComment line) = [body] ∧ parseBody .cons body = .ok i
      ∧ port = i.port ∧ T = encode i)
    ∨ ∃ portName body i, splitAtChar ':' (withoutComment line) = [portName, body] ∧ parsePort portName = some port
      ∧ parseBody port body = .ok i ∧ T = encode i := by
  unfold assembleLine at h
  split at h
  next body hline =>
    split_ifs at h with hblank
    · cases h
    · split at h <;> cases h
      exact .inl ⟨body, _, hline, ‹_›, rfl, rfl⟩
  next portName body hline =>
    split at h
    · cases h
    · split at h <;> cases h
      exact .inr ⟨portName, body, _, hline, ‹_›, ‹_›, rfl⟩
  next => cases h

/-- Settles O6: both kinds of line encode the transaction their mnemonic names. The encoding decodes on the transaction's
own port, which every port that may issue it is, and fails the port check on any other. -/
theorem assembledLineIsOneTransaction : Obligations.AssembledLineIsOneTransaction := by
  unfold Obligations.AssembledLineIsOneTransaction
  intro line port T h
  rcases assembleLine_ok h with ⟨body, i, hline, hbody, rfl, rfl⟩ | ⟨portName, body, i, hline, hport, hbody, rfl⟩
  · have hdenotes := denotes_of_parseInstr hbody
    have hdecode := decode_encode hdenotes.wellFormed []
    rw [List.append_nil] at hdecode
    exact ⟨i, body, hdenotes.wellFormed, rfl, hdenotes.mnemonic, .inl ⟨hline, rfl, hdecode, hdenotes.port⟩⟩
  · have hdenotes := denotes_of_parseInstr hbody
    refine ⟨i, body, hdenotes.wellFormed, rfl, hdenotes.mnemonic, .inr ⟨portName, hline, hport, ?_⟩⟩
    rw [← List.append_nil (encode i)]
    cases ha : i.op.allowedOn port with
    | true =>
      obtain rfl := port_eq_of_allowedOn ha hdenotes.port
      exact decode_encode hdenotes.wellFormed []
    | false => exact decode_encode_wrongPort ha []

/-! ### Presented transactions (R70, R81, R200, R224) -/

/-- Behind a refused transaction of a listed operation the next one begins (R81). -/
theorem bytesAfterRefused_encode (illegalArea : Word32 → Nat) {i : Instr} (h : i.wellFormed = true) (rest : List Byte) :
    bytesAfterRefused illegalArea (encode i ++ rest) = rest := by
  simp [encode, bytesOfWord32, bytesAfterRefused, ← operandArea_length h]

/-- Settles O12: the port check fails, and the bytes of the transaction are taken. -/
theorem wrongPortIsRefused : Obligations.WrongPortIsRefused := by
  unfold Obligations.WrongPortIsRefused
  intro s port later i rest hwf ha ht hstream
  rw [step_of_undecoded ht (hstream ▸ decode_encode_wrongPort ha rest), State.refusedAtDecode, hstream,
    bytesAfterRefused_encode _ hwf, State.taken_eq, State.refuse]

/-- A command word with a listed operation is filled up with zero operands. -/
theorem zeroFillOperands_word {cw : Word32} {op : Op} (h : opOfCode (cwOP cw) = some op) :
    zeroFillOperands (bytesOfWord32 cw) =
      bytesOfWord32 cw ++ List.replicate (areaLength op.format (cwN cw).toNat) 0#8 := by
  simp [bytesOfWord32, zeroFillOperands, h, zeroFill]

/-- A command word filled up with zero operands is one transaction with nothing behind it, if it is one at all. -/
theorem decode_zeroFillOperands {port : Port} {cw : Word32} {i : Instr} {rest : List Byte}
    (h : decode port (zeroFillOperands (bytesOfWord32 cw)) = .ok i rest) : rest = [] := by
  cases hop : opOfCode (cwOP cw) with
  | none =>
    have hT : zeroFillOperands (bytesOfWord32 cw) = bytesOfWord32 cw ++ [] := by
      simp [bytesOfWord32, zeroFillOperands, hop]
    rw [hT, decode_of_error (decodeCommandWord_of_unlisted port hop)] at h
    cases h
  | some op =>
    rw [zeroFillOperands_word hop] at h
    obtain ⟨hcw, hwf, -, -, hN, harea⟩ := decode_word_ok h
    obtain rfl : op = i.op := Option.some.inj (hop.symm.trans (decodeCommandWord_ok hcw).1)
    have hlen := congrArg List.length harea
    rw [List.length_replicate, List.length_append, operandArea_length hwf, hN] at hlen
    exact List.length_eq_zero_iff.1 (by omega)

/-- A word of the table is its four bytes with zero operands behind them. -/
theorem tableBytes_eq (w : Nat) : ∃ cw, tableBytes 32 w = zeroFillOperands (bytesOfWord32 cw) := by
  refine ⟨word32OfBytes (BitVec.ofNat 8 w) (BitVec.ofNat 8 (w / 256)) (BitVec.ofNat 8 (w / 256 / 256))
    (BitVec.ofNat 8 (w / 256 / 256 / 256)), ?_⟩
  rw [bytesOfWord32_word32OfBytes]
  rfl

/-- A word of the table that decodes is presented as the encoding of what it decodes to. -/
theorem tableBytes_of_decodeTableWord {w : Nat} {i : Instr} (h : decodeTableWord 32 w = some i) :
    i.wellFormed = true ∧ defaultPort (tableBytes 32 w) = i.port ∧ tableBytes 32 w = encode i := by
  unfold decodeTableWord at h
  cases hd : decode (defaultPort (tableBytes 32 w)) (tableBytes 32 w) with
  | refused r => simp [hd] at h
  | ok j rest =>
    obtain rfl : j = i := by simpa [hd] using h
    obtain ⟨hwf, hport, hT⟩ := encode_of_decode hd
    obtain ⟨cw, hcw⟩ := tableBytes_eq w
    obtain rfl : rest = [] := decode_zeroFillOperands (hcw ▸ hd)
    exact ⟨hwf, hport.symm, hT.trans (List.append_nil _)⟩

/-- Presenting a word puts its turn and its bytes in front, on its port (log 6). -/
theorem withFetchWord_presents {w : Nat} {i : Instr} (h : decodeTableWord 32 w = some i) (s : State) :
    (s.withFetchWord 32 w).turns = i.port :: s.turns
      ∧ (s.withFetchWord 32 w).stream i.port = encode i ++ s.stream i.port
      ∧ (s.withFetchWord 32 w).taken i.port s.turns (s.stream i.port) = s := by
  obtain ⟨-, hport, hT⟩ := tableBytes_of_decodeTableWord h
  rw [hT] at hport
  simp only [State.withFetchWord, State.presentTableWord, hT, hport]
  cases i.port <;> exact ⟨rfl, rfl, rfl⟩

/-- Settles O9: what is presented is the encoding of `i` on its port, and taking it restores the state. -/
theorem stepRunsThePresentedTableWord : Obligations.StepRunsThePresentedTableWord := by
  unfold Obligations.StepRunsThePresentedTableWord
  intro s w i h
  obtain ⟨hturns, hstream, htaken⟩ := withFetchWord_presents h s
  have hdecode := decode_encode (tableBytes_of_decodeTableWord h).1 (s.stream i.port)
  rw [step_of_decoded hturns (hstream ▸ hdecode), htaken]

/-! ### The frame codec backwards (R82, R120, R121) -/

/-- What UNPACK accepts: a whole number of samples, 1 to `M`, behind the header (R121). -/
theorem unpackFrame_ok {cfg : Config} {b : List Byte} {l : List Sample} (h : unpackFrame cfg b = .ok l) :
    cfg.H + 2 ≤ b.length ∧ (b.length - cfg.H) % 2 = 0 ∧ (b.length - cfg.H) / 2 ≤ cfg.M
      ∧ l = samplesOfBytes (b.drop cfg.H) := by
  unfold unpackFrame at h
  split_ifs at h with hshort hodd hlong
  exact ⟨not_lt.1 hshort, not_not.1 hodd, not_lt.1 hlong, (Unpacked.ok.inj h).symm⟩

/-- Settles O30: the payload has an even length, so it is the bytes of its samples. -/
theorem packOfUnpackRoundTrips : Obligations.PackOfUnpackRoundTrips := by
  unfold Obligations.PackOfUnpackRoundTrips
  intro cfg b l hlegal h hheader
  obtain ⟨-, -, hH, -⟩ := (legal_iff cfg).1 hlegal
  obtain ⟨hshort, heven, hlong, rfl⟩ := unpackFrame_ok h
  have hlen : (samplesOfBytes (b.drop cfg.H)).length = (b.length - cfg.H) / 2 := by
    rw [samplesOfBytes_length, List.length_drop]
  refine ⟨by omega, by omega, ?_⟩
  rw [buildFrame, bytesOfSamples_samplesOfBytes _ (by rwa [List.length_drop]), List.take_of_length_le hH.le, ← hheader,
    List.take_append_drop]

end Sys2Proof

/-! ## The sample ring buffer (40_ring_buffer.md) -/

namespace Sys2Proof.Machine

/-! ### PUSH (R100, R102) -/

theorem exec_push (l : List Sample) (s : State) :
    exec (.push l) s = .next ((s.pushSamples l).respond .prod .nothing) := rfl

/-- The content after a PUSH (R102). -/
theorem State.pushSamples_seq {s : State} (h : StorageInv s) (l : List Sample) :
    (s.pushSamples l).seq = lastSamples s.cfg.C (s.seq ++ l) := by
  rw [State.pushSamples_eq h]
  exact (Ring.push_spec h.posC l 0 h.ring).2.1

/-- Settles O21: PUSH is one update of the state, and the loop of R100 keeps the last `C` samples, counts what it drops
and advances the write cursor once a sample. -/
theorem pushKeepsTheLastSamples : Obligations.PushKeepsTheLastSamples := by
  unfold Obligations.PushKeepsTheLastSamples
  intro s l h
  obtain ⟨-, hseq, hdropped, hwr⟩ := Ring.push_spec h.posC l 0 h.ring
  refine ⟨_, ?_, hseq, Ring.push_cnt h.posC l 0 h.ring, hwr, by simpa using hdropped⟩
  rw [exec_push, State.pushSamples_eq h]
  simp only [State.respond, drops, decide_eq_true_eq]

/-! ### POP (R101, R103, R106) -/

theorem exec_pop (n : Nat) (s : State) :
    exec (.pop n) s = .next ((s.popSamples n).respond .cons (.samples (s.popped n))) := rfl

/-- Settles O22: POP is one update of the state, and removing the oldest samples drops them from the content. -/
theorem popReturnsOldestThenSilence : Obligations.PopReturnsOldestThenSilence := by
  unfold Obligations.PopReturnsOldestThenSilence
  intro s n _
  simp only [State.seq_length]
  refine ⟨s.rb.remove s.cfg.C (min s.rb.cnt n), ?_, Ring.remove_seq _ _ _, rfl, rfl, rfl, rfl⟩
  rw [exec_pop, State.popSamples_eq, State.popped_eq]
  simp only [State.respond, fallsShort, decide_eq_true_eq]

/-- A POP of all that is buffered, or of more: the whole content, then silence (R106). -/
theorem State.popped_of_cnt_le {s : State} {n : Nat} (h : s.rb.cnt ≤ n) :
    s.popped n = s.seq ++ List.replicate (n - s.rb.cnt) 0#16 := by
  rw [State.popped_eq, Nat.min_eq_left h, List.take_of_length_le s.seq_length.le]

theorem State.seq_eq_nil {s : State} (h : s.rb.cnt = 0) : s.seq = [] :=
  List.eq_nil_of_length_eq_zero (s.seq_length.trans h)

/-- Settles O23: both are a POP of no less than what is buffered. -/
theorem underflowIsSilence : Obligations.UnderflowIsSilence := by
  unfold Obligations.UnderflowIsSilence
  refine fun s n => ⟨fun hempty => ⟨_, exec_pop n s, ?_⟩, fun hshort => ⟨_, exec_pop n s, ?_⟩⟩
  · simp [State.popped_of_cnt_le (hempty.trans_le n.zero_le), State.seq_eq_nil hempty, hempty]
  · simp [State.popped_of_cnt_le hshort.le]

/-! ### A run of PUSHes (R104, R105) -/

/-- PUSHes one after another leave what one PUSH of all their samples leaves (R102). -/
theorem execAll_pushes (ls : List (List Sample)) :
    ∀ {s : State}, StorageInv s →
      ∃ t, execAll (ls.map .push) s = .next t ∧ t.seq = lastSamples s.cfg.C (s.seq ++ ls.flatten) := by
  induction ls with
  | nil => exact fun {s} h => ⟨s, rfl, by simpa using h.lastSamples_seq.symm⟩
  | cons l rest ih =>
    intro s h
    have hu := exec_push l s
    obtain ⟨t, ht, hseq⟩ := ih (h.of_effect (.push l))
    refine ⟨t, (execAll_cons hu _).trans ht, ?_⟩
    have hone : ((s.pushSamples l).respond .prod .nothing).seq = lastSamples s.cfg.C (s.seq ++ l) :=
      State.pushSamples_seq h l
    rw [hseq, hone, State.respond_cfg, State.pushSamples_cfg, lastSamples_append, List.append_assoc, List.flatten_cons]

/-- From an empty buffer: the last `C` samples pushed. -/
theorem execAll_pushes_of_empty {s : State} (h : StorageInv s) (hempty : s.rb.cnt = 0) (ls : List (List Sample)) :
    ∃ t, execAll (ls.map .push) s = .next t ∧ t.seq = lastSamples s.cfg.C ls.flatten := by
  simpa [State.seq_eq_nil hempty] using execAll_pushes ls h

/-- Settles O24: what was pushed is the whole content, and the POP takes exactly that much. -/
theorem fifoUnderCapacity : Obligations.FifoUnderCapacity := by
  unfold Obligations.FifoUnderCapacity
  intro s ls h hempty hfits
  obtain ⟨t, ht, hseq⟩ := execAll_pushes_of_empty h hempty ls
  rw [lastSamples_append_of_le hfits] at hseq
  have hcnt : t.rb.cnt = ls.flatten.length := by rw [← t.seq_length, hseq]
  refine ⟨t, _, ht, exec_pop _ t, ?_⟩
  rw [State.respond_results, State.popSamples_results, State.popped_of_cnt_le hcnt.le, hcnt, hseq, Nat.sub_self,
    List.replicate_zero, List.append_nil]

/-- Settles O25: the last `C` of `C + k` samples are those after the first `k`. -/
theorem overflowDropsTheOldest : Obligations.OverflowDropsTheOldest := by
  unfold Obligations.OverflowDropsTheOldest
  intro s ls k h hempty _ hlen
  obtain ⟨t, ht, hseq⟩ := execAll_pushes_of_empty h hempty ls
  rw [lastSamples, hlen, Nat.add_sub_cancel_left] at hseq
  exact ⟨t, ht, hseq, by rw [hseq, List.length_drop, hlen, Nat.add_sub_cancel]⟩

/-! ### Iterations that stay in RECEIVE (R164) -/

/-- STEP in RECEIVE that is not due takes the RECEIVE body (R160, R164). -/
theorem exec_step_receiveBody {s : State} {now : Word32} {ptt : Bool} (hp : s.rc.phase = .receive)
    (hd : ¬ (s.cfg.T_DWELL ≤ (now - s.rc.t_entry).toNat ∧ ptt = true)) :
    exec (.step now ptt []) s = .next (s.receiveBody.respond .cons .nothing) := by
  rw [← State.floorElapsed_iff, ← Bool.and_eq_true, Bool.not_eq_true] at hd
  simp [exec, execStep, hp, hd]

/-- What there is to play while nothing more comes: the content, then silence, here `z` samples of it. -/
def State.audible (z : Nat) (s : State) : List Sample := s.seq ++ List.replicate z 0#16

/-- A POP returns the front of it (R101). -/
theorem State.popped_eq_take_audible (s : State) {n z : Nat} (h : n ≤ z) : s.popped n = (s.audible z).take n := by
  have htake : s.seq.take (min s.rb.cnt n) = s.seq.take n := by
    rw [← s.seq_length, Nat.min_comm, ← List.take_eq_take_min]
  rw [State.popped_eq, State.audible, htake, List.take_append, List.take_replicate, State.seq_length]
  congr 2
  omega

/-- A POP leaves the rest of it; of the silence it uses up only what it fell short by. -/
theorem State.popSamples_audible (s : State) (n z : Nat) :
    (s.popSamples n).audible (z - (n - s.rb.cnt)) = (s.audible z).drop n := by
  have hdrop : s.seq.drop (min s.rb.cnt n) = s.seq.drop n := by
    rw [← s.seq_length, Nat.min_comm, ← List.drop_eq_drop_min]
  rw [State.audible, State.popSamples_seq, State.audible, hdrop, List.drop_append, List.drop_replicate,
    State.seq_length]

/-- Writes to the sink, `K` samples each, of a run of samples. -/
def sinkWrites (K count : Nat) (l : List Sample) : List Event :=
  (List.range count).map fun j => .snkWr ((l.drop (j * K)).take K)

theorem sinkWrites_succ (K count : Nat) (l : List Sample) :
    sinkWrites K (count + 1) l = .snkWr (l.take K) :: sinkWrites K count (l.drop K) := by
  simp [sinkWrites, List.range_succ_eq_map, Nat.add_mul, Nat.add_comm]

/-- Iterations that stay in RECEIVE play the content and then silence. -/
theorem execAll_receiveBodies (later : List (Word32 × Bool)) :
    ∀ {s : State} {z : Nat}, s.rc.phase = .receive →
      (∀ x ∈ later, ¬ (s.cfg.T_DWELL ≤ (x.1 - s.rc.t_entry).toNat ∧ x.2 = true)) → later.length * s.cfg.K_POP ≤ z →
      ∃ t, execAll (later.map fun x => .step x.1 x.2 []) s = .next t ∧ t.rc = s.rc
        ∧ t.out = s.out ++ sinkWrites s.cfg.K_POP later.length (s.audible z) := by
  induction later with
  | nil => exact fun {s z} _ _ _ => ⟨s, rfl, rfl, by simp [sinkWrites]⟩
  | cons x rest ih =>
    intro s z hp hstay hz
    obtain ⟨hd, hrest⟩ := List.forall_mem_cons.1 hstay
    have hu := exec_step_receiveBody hp hd
    rw [List.length_cons, Nat.add_mul, Nat.one_mul] at hz
    obtain ⟨t, ht, hrc, hout⟩ := ih (s := s.receiveBody.respond .cons .nothing)
      (z := z - (s.cfg.K_POP - s.rb.cnt)) (by simpa using hp) (by simpa using hrest) (by simp; omega)
    refine ⟨t, (execAll_cons hu _).trans ht, by simpa using hrc, ?_⟩
    have hleft : (s.receiveBody.respond .cons .nothing).audible (z - (s.cfg.K_POP - s.rb.cnt))
        = (s.audible z).drop s.cfg.K_POP := s.popSamples_audible _ z
    rw [hout, hleft, List.length_cons, sinkWrites_succ, ← s.popped_eq_take_audible (by omega)]
    simp

/-! ### A frame received in TRANSMIT (R140, R165, R228) -/

/-- UNPACK accepts the frames PACK builds, and returns their samples (R82, R120, R121). -/
theorem unpackFrame_buildFrame {cfg : Config} (hH : cfg.HDR.length = cfg.H) {l : List Sample} (h1 : 1 ≤ l.length)
    (hM : l.length ≤ cfg.M) : unpackFrame cfg (buildFrame cfg l) = .ok l := by
  have hlen := buildFrame_length hH l
  have hheader : (buildFrame cfg l).take cfg.H = cfg.HDR.take cfg.H := by
    rw [buildFrame_take_header hH, List.take_of_length_le hH.le]
  have hpayload : (buildFrame cfg l).drop cfg.H = bytesOfSamples l := by
    simp [buildFrame, ← hH]
  have hshort : ¬ cfg.H + 2 * l.length < cfg.H + 2 := by omega
  simp [unpackFrame, hlen, hheader, hpayload, hshort, hM]

/-- RXF of a well-formed frame pushes its samples (R140). -/
theorem exec_rxf_of_ok {s : State} {b : List Byte} {l : List Sample} (h : unpackFrame s.cfg b = .ok l) :
    exec (.rxf b) s = .next ((s.pushSamples l).respond .prod .nothing) := by
  simp [exec, execRxf, h]

/-- RXF of a frame PACK built and then the way out of TRANSMIT: the frame is buffered over the switch (R140, R165). -/
theorem execAll_rxf_enterReceive {s : State} {l : List Sample} {now : Word32} (h : StorageInv s)
    (hp : s.rc.phase = .transmit) (h1 : 1 ≤ l.length) (hM : l.length ≤ s.cfg.M)
    (hd : s.cfg.T_DWELL ≤ (now - s.rc.t_entry).toNat) :
    ∃ t, execAll [.rxf (buildFrame s.cfg l), .step now false []] s = .next t ∧ t.cfg = s.cfg
      ∧ t.rc = { phase := .receive, t_entry := now } ∧ t.seq = lastSamples s.cfg.C (s.seq ++ l)
      ∧ t.out = s.out ++ flushFrames s ++ [.capStop, .snkStart s.cfg.RATE, .ind false] := by
  obtain ⟨-, -, hH, -⟩ := (legal_iff s.cfg).1 h.legalConfig
  have hrxf := exec_rxf_of_ok (unpackFrame_buildFrame hH h1 hM)
  have hstep := exec_step_enterReceive (s := (s.pushSamples l).respond .prod .nothing) (now := now)
    (by simpa using hp) (by simpa using hd)
  refine ⟨_, (execAll_cons hrxf _).trans (execAll_cons hstep []), by simp, rfl, ?_, ?_⟩
  · simpa [State.seq] using State.pushSamples_seq h l
  · simp [State.flushAccumulator_out, flushFrames]

/-- Settles O50: the frame is buffered over the switch, and the iterations play what is buffered. -/
theorem frameReceivedInTransmitIsPlayed : Obligations.FrameReceivedInTransmitIsPlayed := by
  unfold Obligations.FrameReceivedInTransmitIsPlayed
  intro s l now later h hp h1 hM hd hstay heard
  obtain ⟨u, hu, hcfg, hrc, hseq, hout⟩ := execAll_rxf_enterReceive h hp h1 hM hd
  obtain ⟨t, ht, htrc, htout⟩ := execAll_receiveBodies later (s := u) (z := later.length * s.cfg.K_POP)
    (by rw [hrc]) (by rwa [hcfg, hrc]) (by rw [hcfg])
  refine ⟨t, (execAll_append _ _ hu).trans ht, htrc.trans hrc, ?_⟩
  rw [htout, hout, hcfg, State.audible, hseq, sinkWrites]

end Sys2Proof.Machine

/-! ## The frame codec (41_frame_codec.md) -/

namespace Sys2Proof.Machine

/-! ### PACK (R120) -/

theorem packInRange_iff (cfg : Config) (l : List Sample) :
    packInRange cfg l = true ↔ 1 ≤ l.length ∧ l.length ≤ cfg.M := by
  simp [packInRange]

theorem exec_pack_of_inRange {s : State} {l : List Sample} (h1 : 1 ≤ l.length) (hM : l.length ≤ s.cfg.M) (p : Port) :
    exec (.pack p l) s = .next (s.respond p (.frame (buildFrame s.cfg l))) :=
  if_pos ((packInRange_iff s.cfg l).2 ⟨h1, hM⟩)

theorem exec_pack_of_outOfRange {s : State} {l : List Sample} (h : l.length < 1 ∨ s.cfg.M < l.length) (p : Port) :
    exec (.pack p l) s = .next (s.refuse p .operandRange) := by
  refine if_neg fun hin => ?_
  obtain ⟨h1, hM⟩ := (packInRange_iff s.cfg l).1 hin
  omega

/-- Behind the header stand the bytes of the samples (R82). -/
theorem buildFrame_getD_payload {cfg : Config} (hH : cfg.HDR.length = cfg.H) (l : List Sample) (k : Nat) :
    (buildFrame cfg l).getD (cfg.H + k) 0#8 = (bytesOfSamples l).getD k 0#8 := by
  rw [buildFrame, List.take_of_length_le hH.le, ← hH, List.getD_append_right _ _ _ _ (Nat.le_add_right _ _),
    Nat.add_sub_cancel_left]

/-- The two bytes of sample `i` of a run, as numbers (R73). -/
theorem bytesOfSamples_getD_toNat {l : List Sample} {i : Nat} (h : i < l.length) :
    ((bytesOfSamples l).getD (2 * i) 0#8).toNat = (l.getD i 0#16).toNat % 256
      ∧ ((bytesOfSamples l).getD (2 * i + 1) 0#8).toNat = (l.getD i 0#16).toNat / 256 := by
  obtain ⟨hlo, hhi⟩ := bytesOfSamples_getD l i h
  have hhigh : (l.getD i 0#16).toNat / 256 < 256 := Nat.div_lt_of_lt_mul (l.getD i 0#16).isLt
  rw [hlo, hhi, BitVec.extractLsb'_toNat, BitVec.extractLsb'_toNat, Nat.shiftRight_zero, Nat.shiftRight_eq_div_pow]
  exact ⟨rfl, Nat.mod_eq_of_lt hhigh⟩

/-- Settles O27: behind the header, bytes `2i` and `2i + 1` of the payload are the two bytes of sample `i`. -/
theorem packBuildsTheWireFrame : Obligations.PackBuildsTheWireFrame := by
  unfold Obligations.PackBuildsTheWireFrame
  intro s port l h
  obtain ⟨-, -, hH, -⟩ := (legal_iff s.cfg).1 h.legalConfig
  refine ⟨fun ⟨h1, hM⟩ => ⟨_, exec_pack_of_inRange h1 hM port, buildFrame_length hH l, buildFrame_take_header hH l,
    fun i hi => ?_⟩, fun hout => exec_pack_of_outOfRange hout port⟩
  rw [Nat.add_assoc, buildFrame_getD_payload hH, buildFrame_getD_payload hH]
  exact bytesOfSamples_getD_toNat hi

/-! ### UNPACK (R121) -/

theorem exec_unpack (p : Port) (b : List Byte) (s : State) :
    exec (.unpack p b) s = .next (s.respond p (.unpacked (unpackFrame s.cfg b))) := rfl

/-- The four conditions on which UNPACK discards a frame (R121). -/
def MalformedFrame (cfg : Config) (b : List Byte) : Prop :=
  b.length < cfg.H + 2 ∨ (b.length - cfg.H) % 2 ≠ 0 ∨ cfg.M < (b.length - cfg.H) / 2
    ∨ (cfg.CHECK_HEADER = true ∧ b.take cfg.H ≠ cfg.HDR.take cfg.H)

theorem unpackFrame_of_malformed {cfg : Config} {b : List Byte} (h : MalformedFrame cfg b) :
    unpackFrame cfg b = .malformed := by
  unfold unpackFrame
  split_ifs with hshort hodd hlong hheader
  case neg => exact absurd h (by simp only [MalformedFrame, not_or]; exact ⟨hshort, hodd, hlong, hheader⟩)
  all_goals rfl

theorem unpackFrame_of_wellFormed {cfg : Config} {b : List Byte} (h : ¬ MalformedFrame cfg b) :
    unpackFrame cfg b = .ok (samplesOfBytes (b.drop cfg.H)) := by
  simp only [MalformedFrame, not_or] at h
  obtain ⟨hshort, hodd, hlong, hheader⟩ := h
  rw [unpackFrame, if_neg hshort, if_neg hodd, if_neg hlong, if_neg hheader]

/-- Sample `i` of a payload behind `n` bytes, as a number (R76, R121). -/
theorem samplesOfBytes_drop_getD_toNat {b : List Byte} {n i : Nat} (h : 2 * i + 1 < (b.drop n).length) :
    ((samplesOfBytes (b.drop n)).getD i 0#16).toNat
      = (b.getD (n + 2 * i) 0#8).toNat + 256 * (b.getD (n + 2 * i + 1) 0#8).toNat := by
  have hsample := samplesOfBytes_getElem? (b.drop n) i h
  simp only [List.getD_eq_getElem?_getD, List.getElem?_drop, ← Nat.add_assoc] at hsample ⊢
  rw [hsample, Option.getD_some, sampleOfBytes_toNat]

/-- Settles O28: the checks are R121's four conditions, and sample `i` comes from bytes `2i` and `2i + 1` of the payload. -/
theorem unpackReadsTheWireFrame : Obligations.UnpackReadsTheWireFrame := by
  unfold Obligations.UnpackReadsTheWireFrame
  intro s port b
  refine ⟨_, exec_unpack port b s, unpackFrame_of_malformed, fun hok => ⟨_, unpackFrame_of_wellFormed hok, ?_, ?_⟩⟩
  · rw [samplesOfBytes_length, List.length_drop]
  · intro i hi
    rw [samplesOfBytes_length] at hi
    exact samplesOfBytes_drop_getD_toNat (by omega)

/-! ### UNPACK of PACK (R122) -/

/-- Settles O29: UNPACK accepts the frame PACK builds, and the header check compares the header with itself. -/
theorem unpackOfPackRoundTrips : Obligations.UnpackOfPackRoundTrips := by
  unfold Obligations.UnpackOfPackRoundTrips
  intro s p q l h h1 hM
  obtain ⟨-, -, hH, -⟩ := (legal_iff s.cfg).1 h.legalConfig
  refine ⟨_, exec_pack_of_inRange h1 hM p, buildFrame_take_header hH l, ?_⟩
  rw [exec_unpack, unpackFrame_buildFrame hH h1 hM, State.respond]

end Sys2Proof.Machine

/-! ## Transport framing (42_transport.md) -/

namespace Sys2Proof.Machine

/-! ### RXF (R140) -/

theorem exec_rxf_of_malformed {s : State} {b : List Byte} (h : unpackFrame s.cfg b = .malformed) :
    exec (.rxf b) s = .next ((s.absorb .rxMalformed).respond .prod .nothing) := by
  simp [exec, execRxf, h]

/-- RXF of a well-formed frame is a PUSH of its samples (R140). -/
theorem exec_rxf_eq_exec_push {s : State} {b : List Byte} {l : List Sample} (h : unpackFrame s.cfg b = .ok l) :
    exec (.rxf b) s = exec (.push l) s := (exec_rxf_of_ok h).trans (exec_push l s).symm

/-- Settles O31: a well-formed frame is a PUSH of its samples, in either phase, and a malformed one is only named. -/
theorem inboundFrameIsPushedOrDiscarded : Obligations.InboundFrameIsPushedOrDiscarded := by
  unfold Obligations.InboundFrameIsPushedOrDiscarded
  refine fun s b h => ⟨fun l hl => ?_, exec_rxf_of_malformed⟩
  obtain ⟨rb, hpush, hseq, hcnt, -, -⟩ := pushKeepsTheLastSamples s l h
  exact ⟨rb, (exec_rxf_eq_exec_push hl).trans hpush, hseq, hcnt⟩

/-! ### ADD and FLUSH (R142, R143) -/

theorem exec_add (x : Sample) (s : State) : exec (.add x) s = .next ((s.addSample x).respond .cons .nothing) := rfl

theorem exec_flush (s : State) : exec .flush s = .next (s.flushAccumulator.respond .cons .nothing) := rfl

/-- Settles O32: the accumulator stays partial or it is filled, and each is one update of the state. -/
theorem addCollectsAndSendsFullFrames : Obligations.AddCollectsAndSendsFullFrames := by
  unfold Obligations.AddCollectsAndSendsFullFrames
  refine fun s x h => ⟨fun hpartial => ⟨{ data := s.acc.data.set s.acc.len x, len := s.acc.len + 1 }, ?_, rfl, ?_⟩,
    fun hfull => ⟨{ data := s.acc.data.set s.acc.len x, len := 0 }, ?_, rfl⟩⟩
  · rw [exec_add, State.addSample_partial x hpartial.ne, State.respond]
  · exact Accumulator.collected_set s.acc x (h.lenRange.trans_eq h.dataSize.symm)
  · rw [exec_add, State.addSample_full x h.dataSize hfull, State.respond]

/-- Settles O33: FLUSH of a partial frame and of an empty accumulator are each one update of the state. -/
theorem flushSendsThePartialFrame : Obligations.FlushSendsThePartialFrame := by
  unfold Obligations.FlushSendsThePartialFrame
  refine fun s h => ⟨fun hpos => ⟨?_, h.accumulator.collected_length⟩, fun hempty => ?_⟩
  · rw [exec_flush, State.flushAccumulator_some hpos, State.respond]
  · rw [exec_flush, State.flushAccumulator_none hempty, State.respond]

/-! ### A run of ADDs (R144, R145) -/

/-- ADD does not read what was returned before. -/
theorem State.addSample_respond (x : Sample) (p : Port) (r : Result) (s : State) :
    (s.respond p r).addSample x = (s.addSample x).respond p r := by
  by_cases hf : s.acc.len + 1 = s.cfg.M
  · simp only [State.addSample, State.respond_cfg, State.respond_acc, hf, if_true, State.sendFrame_eq]
    rfl
  · rw [State.addSample_partial x hf, State.addSample_partial (s := s.respond p r) x hf]
    rfl

theorem State.addSamples_respond (l : List Sample) (p : Port) (r : Result) :
    ∀ s : State, (s.respond p r).addSamples l = (s.addSamples l).respond p r := by
  induction l with
  | nil => exact fun _ => rfl
  | cons x rest ih =>
    intro s
    rw [State.addSamples, State.addSample_respond, ih, State.addSamples]

/-- ADDs one after another are a run of samples added, and as many results that return nothing (R142, R166). -/
theorem execAll_adds (l : List Sample) :
    ∀ s : State, execAll (l.map .add) s = .next
      { s.addSamples l with results := s.results ++ List.replicate l.length (.cons, .nothing) } := by
  induction l with
  | nil => intro s; simp [execAll, State.addSamples]
  | cons x rest ih =>
    intro s
    rw [List.map_cons, execAll_cons (exec_add x s), ih, State.addSamples_respond, State.addSamples]
    simp [List.replicate_succ, State.respond]

theorem Accumulator.collected_of_len_zero {a : Accumulator} (h : a.len = 0) : a.collected = [] := by
  rw [Accumulator.collected, h, List.take_zero]

/-- ADDs from an empty accumulator: one frame for each full chunk, and what is after them stays collected (R144). -/
theorem execAll_adds_of_empty {s : State} (h : AccOk s.cfg.M s.acc) (hz : s.acc.len = 0) (l : List Sample) :
    ∃ t, execAll (l.map .add) s = .next t ∧ t.cfg = s.cfg ∧ t.out = s.out ++ fullFrames s.cfg l
      ∧ t.acc.len = l.length % s.cfg.M ∧ t.acc.collected = unframed s.cfg l := by
  obtain ⟨hout, hcollected, -, -⟩ := State.addSamples_spec l h
  rw [Accumulator.collected_of_len_zero hz, List.nil_append] at hout hcollected
  refine ⟨_, execAll_adds l s, State.addSamples_cfg l s, hout, ?_, hcollected⟩
  rw [← unframed_length, ← hcollected]
  exact (AccOk.addSamples l h).collected_length.symm

/-- Settles O34: a run of ADDs sends the full chunks of what was collected, here nothing, and of its samples. -/
theorem addsSendOneFramePerChunk : Obligations.AddsSendOneFramePerChunk := by
  unfold Obligations.AddsSendOneFramePerChunk
  intro s l h hz
  obtain ⟨t, ht, -, hout, hlen, hcollected⟩ := execAll_adds_of_empty h.accumulator hz l
  exact ⟨t, ht, hout, hlen, hcollected⟩

/-- Settles O35: fewer than `M` samples are no full chunk, so they are all still collected when FLUSH sends them. -/
theorem flushSendsExactlyTheTail : Obligations.FlushSendsExactlyTheTail := by
  unfold Obligations.FlushSendsExactlyTheTail
  refine fun s l h hz => ⟨fun hpos hlt => ?_, ⟨_, exec_flush s, ?_⟩⟩
  · obtain ⟨t, ht, hcfg, hout, hlen, hcollected⟩ := execAll_adds_of_empty h.accumulator hz l
    rw [fullFrames_of_lt hlt, List.append_nil] at hout
    rw [unframed_of_lt hlt] at hcollected
    rw [Nat.mod_eq_of_lt hlt] at hlen
    refine ⟨t, _, ht, hout, exec_flush t, ?_, t.flushAccumulator_len⟩
    rw [State.respond_out, State.flushAccumulator_some (hlen.symm ▸ hpos), hout, hcollected, hcfg]
  · rw [State.respond_out, State.flushAccumulator_none hz]

/-! ### The radio's answers (R141, R191, R199) -/

/-- `t` is `s` but for the radio's coming answers and the absorbed conditions. -/
def SameButAnswers (s t : State) : Prop :=
  ∃ (answers : List SendAnswer) (conditions : List Condition), t = { s with sends := answers, absorbed := conditions }

section SameButAnswers

variable {s t : State} (h : SameButAnswers s t)
include h

theorem SameButAnswers.cfg : t.cfg = s.cfg := by obtain ⟨_, _, rfl⟩ := h; rfl

theorem SameButAnswers.rc : t.rc = s.rc := by obtain ⟨_, _, rfl⟩ := h; rfl

theorem SameButAnswers.turns : t.turns = s.turns := by obtain ⟨_, _, rfl⟩ := h; rfl

theorem SameButAnswers.refusals : t.refusals = s.refusals := by obtain ⟨_, _, rfl⟩ := h; rfl

theorem SameButAnswers.stream (p : Port) : t.stream p = s.stream p := by
  obtain ⟨_, _, rfl⟩ := h
  cases p <;> rfl

theorem SameButAnswers.popped (n : Nat) : t.popped n = s.popped n := by obtain ⟨_, _, rfl⟩ := h; rfl

theorem SameButAnswers.floorElapsed (now : Word32) : t.floorElapsed now = s.floorElapsed now := by
  simp only [State.floorElapsed, h.cfg, h.rc]

theorem SameButAnswers.setRc (c : Coordinator) : SameButAnswers { s with rc := c } { t with rc := c } := by
  obtain ⟨_, _, rfl⟩ := h
  exact ⟨_, _, rfl⟩

theorem SameButAnswers.emit (e : Event) : SameButAnswers (s.emit e) (t.emit e) := by
  obtain ⟨_, _, rfl⟩ := h
  exact ⟨_, _, rfl⟩

theorem SameButAnswers.absorb (c : Condition) : SameButAnswers (s.absorb c) (t.absorb c) := by
  obtain ⟨_, _, rfl⟩ := h
  exact ⟨_, _, rfl⟩

theorem SameButAnswers.respond (p : Port) (r : Result) : SameButAnswers (s.respond p r) (t.respond p r) := by
  obtain ⟨_, _, rfl⟩ := h
  exact ⟨_, _, rfl⟩

theorem SameButAnswers.refuse (p : Port) (r : RefusalReason) : SameButAnswers (s.refuse p r) (t.refuse p r) := by
  obtain ⟨_, _, rfl⟩ := h
  exact ⟨_, _, rfl⟩

theorem SameButAnswers.taken (p : Port) (later : List Port) (T : List Byte) :
    SameButAnswers (s.taken p later T) (t.taken p later T) := by
  obtain ⟨_, _, rfl⟩ := h
  rw [State.taken_eq, State.taken_eq]
  exact ⟨_, _, rfl⟩

theorem SameButAnswers.pushSamples (l : List Sample) : SameButAnswers (s.pushSamples l) (t.pushSamples l) := by
  obtain ⟨_, _, rfl⟩ := h
  rw [State.pushSamples_update, State.pushSamples_update]
  exact ⟨_, _, rfl⟩

theorem SameButAnswers.popSamples (n : Nat) : SameButAnswers (s.popSamples n) (t.popSamples n) := by
  obtain ⟨_, _, rfl⟩ := h
  rw [State.popSamples_eq, State.popSamples_eq]
  exact ⟨_, _, rfl⟩

/-- A send reads the next answer, but only into the answers to come and the absorbed conditions (R141, R199). -/
theorem SameButAnswers.sendFrame (f : List Byte) : SameButAnswers (s.sendFrame f) (t.sendFrame f) := by
  obtain ⟨_, _, rfl⟩ := h
  rw [State.sendFrame_eq, State.sendFrame_eq]
  exact ⟨_, _, rfl⟩

theorem SameButAnswers.addSample (x : Sample) : SameButAnswers (s.addSample x) (t.addSample x) := by
  obtain ⟨_, _, rfl⟩ := h
  simp only [State.addSample]
  split_ifs
  · exact SameButAnswers.sendFrame ⟨_, _, rfl⟩ _
  · exact ⟨_, _, rfl⟩

theorem SameButAnswers.flushAccumulator : SameButAnswers s.flushAccumulator t.flushAccumulator := by
  obtain ⟨_, _, rfl⟩ := h
  simp only [State.flushAccumulator]
  split_ifs
  · exact SameButAnswers.sendFrame ⟨_, _, rfl⟩ _
  · exact ⟨_, _, rfl⟩

theorem SameButAnswers.enterTransmit (now : Word32) : SameButAnswers (s.enterTransmit now) (t.enterTransmit now) :=
  (((h.emit _).emit _).emit _).setRc _

theorem SameButAnswers.enterReceive (now : Word32) : SameButAnswers (s.enterReceive now) (t.enterReceive now) := by
  simp only [State.enterReceive, h.cfg]
  exact (((h.flushAccumulator.emit _).emit _).emit _).setRc _

theorem SameButAnswers.receiveBody : SameButAnswers s.receiveBody t.receiveBody := by
  simp only [State.receiveBody, h.cfg, h.popped]
  exact (h.popSamples _).emit _

theorem SameButAnswers.refusedAtDecode (p : Port) (later : List Port) (r : RefusalReason) :
    SameButAnswers (s.refusedAtDecode p later r) (t.refusedAtDecode p later r) := by
  simp only [State.refusedAtDecode, h.refusals, h.stream]
  exact (h.taken _ _ _).refuse _ _

end SameButAnswers

theorem SameButAnswers.addSamples (l : List Sample) :
    ∀ {s t : State}, SameButAnswers s t → SameButAnswers (s.addSamples l) (t.addSamples l) := by
  induction l with
  | nil => exact id
  | cons x rest ih => exact fun h => ih (h.addSample x)

theorem SameButAnswers.transmitBody {s t : State} (h : SameButAnswers s t) (c : List Sample) :
    SameButAnswers (s.transmitBody c) (t.transmitBody c) := (h.emit _).addSamples c

/-- STEP takes the same way whatever the answers are: its checks read the configuration, the phase and its entry time. -/
theorem SameButAnswers.of_execStep {s t s' t' : State} {now : Word32} {ptt : Bool} {c : List Sample}
    (h : SameButAnswers s s') (ht : execStep now ptt c s = .next t) (ht' : execStep now ptt c s' = .next t') :
    SameButAnswers t t' := by
  unfold execStep at ht ht'
  rw [h.cfg, h.rc, h.floorElapsed now] at ht'
  cases hp : s.rc.phase with
  | receive =>
    simp only [hp] at ht ht'
    split_ifs at ht ht' with hk hc hd
    · cases ht; cases ht'; exact h.refuse _ _
    · cases ht; cases ht'; exact h.refuse _ _
    · cases ht; cases ht'; exact (h.enterTransmit now).respond _ _
    · cases ht; cases ht'; exact h.receiveBody.respond _ _
  | transmit =>
    simp only [hp] at ht ht'
    split_ifs at ht ht' with hk hd hc
    · cases ht; cases ht'; exact h.refuse _ _
    · cases ht; cases ht'; exact h.refuse _ _
    · cases ht; cases ht'; exact (h.enterReceive now).respond _ _
    · cases ht; cases ht'; exact (h.transmitBody c).respond _ _

theorem SameButAnswers.of_exec {i : Instr} {s t s' t' : State} (h : SameButAnswers s s') (ht : exec i s = .next t)
    (ht' : exec i s' = .next t') : SameButAnswers t t' := by
  cases i with
  | push l => cases ht; cases ht'; exact (h.pushSamples l).respond _ _
  | pop n =>
    cases ht; cases ht'
    rw [h.popped]
    exact (h.popSamples n).respond _ _
  | pack p l =>
    simp only [exec, execPack, h.cfg] at ht ht'
    split_ifs at ht ht'
    · cases ht; cases ht'; exact h.respond _ _
    · cases ht; cases ht'; exact h.refuse _ _
  | unpack p b =>
    cases ht; cases ht'
    rw [h.cfg]
    exact h.respond _ _
  | rxf b =>
    cases hb : unpackFrame s.cfg b with
    | malformed =>
      rw [exec_rxf_of_malformed hb] at ht
      rw [exec_rxf_of_malformed (h.cfg ▸ hb)] at ht'
      cases ht; cases ht'; exact (h.absorb _).respond _ _
    | ok l =>
      rw [exec_rxf_of_ok hb] at ht
      rw [exec_rxf_of_ok (h.cfg ▸ hb)] at ht'
      cases ht; cases ht'; exact (h.pushSamples l).respond _ _
  | add x => cases ht; cases ht'; exact (h.addSample x).respond _ _
  | flush => cases ht; cases ht'; exact h.flushAccumulator.respond _ _
  | step now ptt c => exact h.of_execStep ht ht'

theorem SameButAnswers.of_step {s t s' t' : State} (h : SameButAnswers s s') (ht : step s = .next t)
    (ht' : step s' = .next t') : SameButAnswers t t' := by
  cases hturn : s.turns with
  | nil =>
    rw [step_of_no_turn hturn] at ht
    rw [step_of_no_turn (h.turns.trans hturn)] at ht'
    cases ht; cases ht'; exact h
  | cons p later =>
    cases hd : decode p (s.stream p) with
    | ok i rest =>
      rw [step_of_decoded hturn hd] at ht
      rw [step_of_decoded (h.turns.trans hturn) (h.stream p ▸ hd)] at ht'
      exact (h.taken p later rest).of_exec ht ht'
    | refused r =>
      rw [step_of_undecoded hturn hd] at ht
      rw [step_of_undecoded (h.turns.trans hturn) (h.stream p ▸ hd)] at ht'
      cases ht; cases ht'; exact h.refusedAtDecode p later r

/-- Settles O36: every shared operation keeps two states equal but for the answers, so a step does too. -/
theorem sendAnswersReachNoState : Obligations.SendAnswersReachNoState := by
  unfold Obligations.SendAnswersReachNoState
  intro s t answers conditions ht
  obtain ⟨t', ht'⟩ := step_completes { s with sends := answers, absorbed := conditions }
  obtain ⟨answers', conditions', rfl⟩ := SameButAnswers.of_step ⟨answers, conditions, rfl⟩ ht ht'
  exact ⟨answers', conditions', ht'⟩

end Sys2Proof.Machine

/-! ## The relay coordinator (43_coordinator.md) -/

namespace Sys2Proof.Machine

/-! ### The dwell timer and the phase (R160, R161, R167, R168) -/

/-- Settles O40: `elapsed` subtracts the entry time, so it cancels where the clock reads the entry time plus `d`. -/
theorem dwellFloorIsWrapAround : Obligations.DwellFloorIsWrapAround := by
  unfold Obligations.DwellFloorIsWrapAround
  refine fun s now d => ⟨?_, ?_⟩
  · rw [Coordinator.elapsed, BitVec.toNat_sub]
    have := s.rc.t_entry.isLt
    congr 1
    omega
  · rw [State.floorElapsed_iff, BitVec.add_comm, BitVec.add_sub_cancel, BitVec.toNat_ofNat]

/-- STEP does not ask to leave the phase, or asks before the floor (R160). -/
def StaysInPhase (s : State) (now : Word32) (ptt : Bool) : Prop :=
  (now - s.rc.t_entry).toNat < s.cfg.T_DWELL ∨ ptt = (s.rc.phase == .transmit)

theorem StaysInPhase.ptt_eq {s : State} {now : Word32} {ptt : Bool} (h : StaysInPhase s now ptt)
    (hd : s.floorElapsed now = true) : ptt = (s.rc.phase == .transmit) :=
  h.resolve_left ((s.floorElapsed_iff now).1 hd).not_gt

/-- Only a due STEP writes the phase and its entry time (R31, R32, R167). -/
theorem Effect.rc_eq {s t : State} {i : Instr} (he : Effect s i t)
    (hstay : ∀ now ptt c, i = .step now ptt c → StaysInPhase s now ptt) : t.rc = s.rc := by
  cases he with
  | enterTransmit now hp hd => simpa [hp] using (hstay now true [] rfl).ptt_eq hd
  | enterReceive now hp hd => simpa [hp] using (hstay now false [] rfl).ptt_eq hd
  | _ => simp

theorem exec_step_keeps_rc {s : State} {now : Word32} {ptt : Bool} (c : List Sample) (h : StaysInPhase s now ptt) :
    ∃ t, exec (.step now ptt c) s = .next t ∧ t.rc = s.rc := by
  obtain ⟨t, ht, he⟩ := exec_effect (.step now ptt c) s
  exact ⟨t, ht, he.rc_eq fun _ _ _ hi => by cases hi; exact h⟩

/-- The configuration, the phase and its entry time are those of `s`, so the dwell floor still counts from there. -/
structure SameDwell (s t : State) : Prop where
  cfg : t.cfg = s.cfg
  rc : t.rc = s.rc

/-- A transaction keeps them unless it is a STEP that is due, counted from the entry in `s` (R168). -/
theorem SameDwell.of_effect {s t u : State} {i : Instr} (h : SameDwell s t) (he : Effect t i u)
    (hstay : ∀ now ptt c, i = .step now ptt c → StaysInPhase s now ptt) : SameDwell s u where
  cfg := (Extends.of_effect he).cfg.trans h.cfg
  rc := by
    have hrc : u.rc = t.rc := he.rc_eq fun now ptt c hi => by
      rw [StaysInPhase, h.cfg, h.rc]
      exact hstay now ptt c hi
    exact hrc.trans h.rc

/-- Settles O47: a run of STEPs that stay keeps the configuration, the phase and its entry time, so afterwards a
STEP is due exactly as in the first state, and takes its transition. -/
theorem dwellFloorHolds : Obligations.DwellFloorHolds := by
  unfold Obligations.DwellFloorHolds
  intro run s hrun
  obtain ⟨t, ht, hcfg, hrc⟩ := execAll_keeps (P := SameDwell s) (run := run)
    (fun i hi u v hu he => hu.of_effect he fun now ptt c hstep => hrun now ptt c (hstep ▸ hi)) ⟨rfl, rfl⟩
  refine ⟨t, ht, hrc, fun now hdue => ?_⟩
  rw [← hcfg, ← hrc] at hdue
  rw [← hrc]
  exact ⟨fun hp => ⟨_, exec_step_enterReceive hp hdue, rfl⟩, fun hp => ⟨_, exec_step_enterTransmit hp hdue, rfl⟩⟩

/-- Settles O46: in each row of R167 the STEP stays, or it is due and takes its transition with no captured samples. -/
theorem phaseChangesExactlyWhenDue : Obligations.PhaseChangesExactlyWhenDue := by
  unfold Obligations.PhaseChangesExactlyWhenDue
  intro s now ptt c due hok
  cases hp : s.rc.phase <;> cases ptt
  case receive.false => exact exec_step_keeps_rc c (.inr (by simp [hp]))
  case transmit.true => exact exec_step_keeps_rc c (.inr (by simp [hp]))
  case receive.true =>
    by_cases hdue : due
    · obtain rfl : c = [] := by simpa [hp] using hok
      exact ⟨_, exec_step_enterTransmit hp hdue, by simp [hdue]⟩
    · simpa [hdue] using exec_step_keeps_rc c (.inl (not_le.1 hdue))
  case transmit.false =>
    by_cases hdue : due
    · obtain rfl : c = [] := by simpa [hdue] using hok
      exact ⟨_, exec_step_enterReceive hp hdue, by simp [hdue]⟩
    · simpa [hdue] using exec_step_keeps_rc c (.inl (not_le.1 hdue))

/-! ### The refusals of STEP (R160, R201) -/

theorem exec_step_operandRange {s : State} {c : List Sample} (h : s.cfg.K_CAP < c.length) (now : Word32) (ptt : Bool) :
    exec (.step now ptt c) s = .next (s.refuse .cons .operandRange) := by
  simp [exec, execStep, h]

theorem exec_step_captureUnexpected_receive {s : State} {c : List Sample} (hp : s.rc.phase = .receive)
    (hk : c.length ≤ s.cfg.K_CAP) (hc : c ≠ []) (now : Word32) (ptt : Bool) :
    exec (.step now ptt c) s = .next (s.refuse .cons .captureUnexpected) := by
  simp [exec, execStep, hp, hk.not_gt, hc]

theorem exec_step_captureUnexpected_transmit {s : State} {c : List Sample} {now : Word32} (hp : s.rc.phase = .transmit)
    (hk : c.length ≤ s.cfg.K_CAP) (hc : c ≠ []) (hd : s.cfg.T_DWELL ≤ (now - s.rc.t_entry).toNat) :
    exec (.step now false c) s = .next (s.refuse .cons .captureUnexpected) := by
  simp [exec, execStep, hp, hk.not_gt, hc, (s.floorElapsed_iff now).2 hd]

/-- Settles O45: the count is checked first, and neither RECEIVE nor the exit from TRANSMIT reads a capture. -/
theorem stepRefusesUnexpectedCapture : Obligations.StepRefusesUnexpectedCapture := by
  unfold Obligations.StepRefusesUnexpectedCapture
  refine fun s now ptt c => ⟨fun hlong => exec_step_operandRange hlong now ptt, ?_⟩
  rintro hk hc (hp | ⟨hp, hd, rfl⟩)
  · exact exec_step_captureUnexpected_receive hp hk hc now ptt
  · exact exec_step_captureUnexpected_transmit hp hk hc hd

/-! ### The four ways STEP completes, each as one update (R163 to R166) -/

theorem State.enterTransmit_eq (now : Word32) (s : State) :
    s.enterTransmit now =
      { s with
        rc := { phase := .transmit, t_entry := now }
        out := s.out ++ [.snkStop, .capStart, .ind true] } := by
  simp [State.enterTransmit, State.emit]

/-- Settles O41: the STEP takes the transition of R163, which is one update. -/
theorem stepEntersTransmit : Obligations.StepEntersTransmit := by
  unfold Obligations.StepEntersTransmit
  intro s now hp hd
  rw [exec_step_enterTransmit hp hd, State.enterTransmit_eq, State.respond]

theorem State.receiveBody_eq (s : State) :
    s.receiveBody =
      { s with
        rb := s.rb.remove s.cfg.C (min s.rb.cnt s.cfg.K_POP)
        diag := diagAfterPop s s.cfg.K_POP
        absorbed := s.absorbed ++ (if fallsShort s s.cfg.K_POP then [.rbUnderflow] else [])
        out := s.out ++ [.snkWr (s.popped s.cfg.K_POP)] } := by
  rw [State.receiveBody, State.popSamples_eq, State.emit]

/-- Settles O42: the STEP takes the RECEIVE body, a POP of `K_POP` samples written to the sink. -/
theorem stepPlaysInReceive : Obligations.StepPlaysInReceive := by
  unfold Obligations.StepPlaysInReceive
  intro s now ptt _ hp hstay
  simp only [State.seq_length]
  refine ⟨s.rb.remove s.cfg.C (min s.rb.cnt s.cfg.K_POP), ?_, Ring.remove_seq _ _ _, rfl, rfl⟩
  rw [exec_step_receiveBody hp hstay, State.receiveBody_eq, State.popped_eq]
  simp only [State.respond, fallsShort, decide_eq_true_eq]

/-- FLUSH as one update, with a partial frame or without one (R143). -/
theorem State.flushAccumulator_eq (s : State) :
    s.flushAccumulator =
      { s with
        acc := { data := s.acc.data, len := 0 }
        out := s.out ++ flushFrames s
        sends := if 0 < s.acc.len then s.sends.drop 1 else s.sends
        absorbed := s.absorbed ++ (if 0 < s.acc.len then sendConditions 1 s else []) } := by
  by_cases hpos : 0 < s.acc.len
  · simp [State.flushAccumulator_some hpos, flushFrames, hpos]
  · have hz : s.acc.len = 0 := by omega
    have hacc : s.acc = { data := s.acc.data, len := 0 } := by rw [← hz]
    simp [State.flushAccumulator_none hz, flushFrames, hz, ← hacc]

/-- Settles O43: the STEP takes the transition of R165, whose flush comes before its three events. -/
theorem stepEntersReceive : Obligations.StepEntersReceive := by
  unfold Obligations.StepEntersReceive
  intro s now _ hp hd
  rw [exec_step_enterReceive hp hd, State.enterReceive, State.flushAccumulator_eq]
  simp [State.emit, State.respond, flushFrames]

/-- A run of ADDs as one update: it writes the accumulator, the trace, the radio's answers and the absorbed conditions
(R142, R144). -/
theorem State.addSamples_eq {s : State} (h : AccOk s.cfg.M s.acc) (l : List Sample) :
    s.addSamples l =
      { s with
        acc := (s.addSamples l).acc
        out := s.out ++ fullFrames s.cfg (s.acc.collected ++ l)
        sends := s.sends.drop ((s.acc.collected ++ l).length / s.cfg.M)
        absorbed := s.absorbed ++ sendConditions ((s.acc.collected ++ l).length / s.cfg.M) s } := by
  obtain ⟨hout, -, hsends, habsorbed⟩ := State.addSamples_spec l h
  rw [List.length_append, h.collected_length, ← hout, ← hsends, ← habsorbed]
  -- A state is the record of its fields, and each field but these four is left alone by its own simp lemma.
  calc s.addSamples l = ⟨_, _, _, _, _, _, _, _, _, _, _, _, _, _⟩ := rfl
    _ = _ := by simp

theorem State.transmitBody_eq {s : State} (h : AccOk s.cfg.M s.acc) (c : List Sample) :
    s.transmitBody c =
      { s with
        acc := (s.transmitBody c).acc
        out := s.out ++ [.capRd c.length] ++ fullFrames s.cfg (s.acc.collected ++ c)
        sends := s.sends.drop ((s.acc.collected ++ c).length / s.cfg.M)
        absorbed := s.absorbed ++ sendConditions ((s.acc.collected ++ c).length / s.cfg.M) s } :=
  State.addSamples_eq (s := s.emit (.capRd c.length)) h c

/-- Settles O44: the STEP takes the TRANSMIT body, the capture read and then a run of ADDs. -/
theorem stepSendsCapturedSamples : Obligations.StepSendsCapturedSamples := by
  unfold Obligations.StepSendsCapturedSamples
  intro s now ptt c h hp hstay hk all frames
  have hsends := Sends.transmitBody h.accumulator c
  refine ⟨(s.transmitBody c).acc, ?_, ?_, hsends.collected⟩
  · rw [exec_step_transmitBody hp hk hstay, State.transmitBody_eq h.accumulator, State.respond]
    rfl
  · rw [← hsends.acc.collected_length, hsends.collected, unframed_length]

end Sys2Proof.Machine

/-! ## Refused transactions (60_exceptions.md) -/

namespace Sys2Proof.Machine

/-! ### What a refusal changes (R200) -/

/-- A refusal by the decoder as one update: the mark, the report, the turn and the bytes of the port (log 4, log 7). -/
theorem State.refusedAtDecode_eq (port : Port) (later : List Port) (r : RefusalReason) (s : State) :
    ∃ rest, s.refusedAtDecode port later r =
      { s with
        refused := true
        refusals := s.refusals ++ [(port, r)]
        turns := later
        prodStream := if port = .prod then rest else s.prodStream
        consStream := if port = .cons then rest else s.consStream } :=
  ⟨_, by rw [State.refusedAtDecode, State.taken_eq, State.refuse]⟩

/-- A transaction is refused as a whole, on its own port, or it writes neither the mark nor the reports. -/
theorem Effect.refuses_or_keeps_refusals {s t : State} {i : Instr} (h : Effect s i t) :
    (∃ r, t = s.refuse i.port r) ∨ (t.refused = s.refused ∧ t.refusals = s.refusals) := by
  cases h with
  | refused _ r => exact .inl ⟨r, rfl⟩
  | _ => exact .inr (by simp)

/-- No transaction clears the mark. -/
theorem Effect.keeps_mark {s t : State} {i : Instr} (h : Effect s i t) (hs : s.refused = true) : t.refused = true := by
  rcases h.refuses_or_keeps_refusals with ⟨r, rfl⟩ | ⟨hmark, -⟩
  · exact State.refuse_refused _ r s
  · exact hmark.trans hs

/-- A transaction that reports a refusal does nothing else than refuse. -/
theorem Effect.eq_refuse_of_refusals_ne {s t : State} {i : Instr} (h : Effect s i t) (hne : t.refusals ≠ s.refusals) :
    ∃ r, t = s.refuse i.port r :=
  h.refuses_or_keeps_refusals.resolve_right fun hkeeps => hne hkeeps.2

/-- The mark REFUSED is sticky: none of the three cases of a step clears it. -/
theorem step_keeps_mark {s t : State} (h : step s = .next t) (hs : s.refused = true) : t.refused = true := by
  rcases step_cases h with rfl | ⟨p, later, i, rest, -, -, hx⟩ | ⟨p, later, r, -, -, rfl⟩
  · exact hs
  · exact (exec_next_effect hx).keeps_mark ((State.taken_refused p later rest s).trans hs)
  · exact State.refuse_refused p r _

/-- Settles O11: a refusal by the decoder is one update, a transaction that reports a refusal is nothing but that refusal,
and no case of a step clears the mark. -/
theorem refusedTransactionLeavesTheCore : Obligations.RefusedTransactionLeavesTheCore := by
  unfold Obligations.RefusedTransactionLeavesTheCore
  refine ⟨fun s port later r ht hd => ?_, fun i s t h hne => (exec_next_effect h).eq_refuse_of_refusals_ne hne,
    fun s t => step_keeps_mark⟩
  rw [step_of_undecoded ht hd]
  obtain ⟨rest, hrest⟩ := s.refusedAtDecode_eq port later r
  exact ⟨rest, congrArg _ hrest⟩

end Sys2Proof.Machine

/-! ## Reset (70_reset_and_hazards.md) -/

namespace Sys2Proof.Machine

/-- Settles O14: a legal construction answers the state of R220, whose phase RECEIVE (R37) has capture stopped and the
indicator off; the check of R7 refuses every other configuration. -/
theorem constructionLeavesTheResetValues : Obligations.ConstructionLeavesTheResetValues := by
  unfold Obligations.ConstructionLeavesTheResetValues
  intro cfg now0 buf data
  obtain ⟨-, hcapture, hindicator⟩ := collaboratorsFollowPhase_constructed cfg now0 buf data
  refine ⟨fun hlegal => ?_, fun hillegal => initWith_illegal (Bool.eq_false_iff.1 hillegal) now0 buf data⟩
  exact ⟨_, initWith_legal hlegal now0 buf data, rfl, rfl, rfl, rfl, rfl, rfl, rfl, hcapture, hindicator⟩

end Sys2Proof.Machine
